-- ==== Sys2Proof/Word.lean ====
section
/-! DEFINITION. The byte and the byte sequence, the only data the CFE handles (00_scope.md R13, R14). -/

namespace Sys2Proof

/-- An unsigned 8-bit value; bit 0 is the least significant (R13). -/
abbrev Byte := BitVec 8

/-- A byte sequence; its first element is the earliest byte in time (R14, 20_memory.md R52). -/
abbrev Bytes := List Byte

end Sys2Proof
end

