-- ==== Sys2Proof/Config.lean ====
section
/-! DEFINITION. The constants and the parameters of an instance (00_scope.md R7, R8, R9), and the model's one free value. -/

namespace Sys2Proof

/-- `START`, the byte that opens a frame (R7). -/
def startByte : Byte := 0x05#8

/-- `END`, the byte that closes the payload of a frame (R7). -/
def endByte : Byte := 0x04#8

/-- The largest number the 16-bit fields LEN and RLEN can say (30_encoding.md R76). -/
def maxField : Nat := 65535

/-- `RX_BUF_CAP`: a natural number, or `INF` (R8). -/
inductive RxCap where
  | inf
  | finite (n : Nat)
deriving DecidableEq, Repr

/-- `LINE_BIT_ORDER`, a property of the Transport that no CFE rule reads (R9). -/
inductive BitOrder where
  | lsbFirst
  | msbFirst
deriving DecidableEq, Repr

/-- The parameters of an instance, constant for its life (R8, 10_state.md R35). `NUM_INSTANCES` is a parameter of a system of
instances (`SystemParams`). -/
structure Params where
  rxBufCap : RxCap
  maxFrameLen : Nat
  lineBitOrder : BitOrder
deriving DecidableEq, Repr

/-- The reference values: `INF` (D8) and 65535 (R8). DESIGN CHOICE (logs 4 and 5): unsafe for a claim about the reset state
that rests on one of them, since `RX_BUF_CAP` and `LINE_BIT_ORDER` are OPEN in the spec. -/
def Params.reference : Params := { rxBufCap := .inf, maxFrameLen := 65535, lineBitOrder := .lsbFirst }

/-- The ranges of R8: `RX_BUF_CAP ≥ 2` or `INF`, and `3 ≤ MAX_FRAME_LEN ≤ 65535`. -/
def Params.inRange (p : Params) : Bool :=
  (match p.rxBufCap with
   | .inf => true
   | .finite n => decide (2 ≤ n)) &&
  decide (3 ≤ p.maxFrameLen) && decide (p.maxFrameLen ≤ 65535)

/-- The parameters of a system: `NUM_INSTANCES`, and those of each instance (R8; log 12). -/
structure SystemParams where
  numInstances : Nat
  ofEach : Params
deriving DecidableEq, Repr

/-- The reference values of a system: one instance (92_eei_decisions.md D29). DESIGN CHOICE (log 12): the spec leaves
`NUM_INSTANCES` OPEN; unsafe for a claim that rests on the one. -/
def SystemParams.reference : SystemParams := { numInstances := 1, ofEach := Params.reference }

/-- The ranges of R8, `NUM_INSTANCES ≥ 1` among them. -/
def SystemParams.inRange (p : SystemParams) : Bool := decide (1 ≤ p.numInstances) && p.ofEach.inRange

/-- The value of RLEN of a result whose data is longer than the field can say: the spec states none (R76 against
42_correlator.md R179 and R180). A FREE VALUE, drawn afresh for each such result: `source` names the instance's own sequence of free
values, `drawn` the place in it (60_exceptions.md R264: instances share nothing; log 7). DESIGN CHOICE (log 6), safe: nothing
constrains it. -/
opaque Config.freeRlen : (source : Nat) → (drawn : Nat) → BitVec 16

end Sys2Proof
end

