-- ==== Sys2Proof/Syntax.lean ====
section
/-! DEFINITION. The operations of CFE operation set 1 (30_encoding.md R80, R81), one constructor per row of the opcode table. -/

namespace Sys2Proof

/-- The two input ports (20_memory.md R50). -/
inductive Port where
  | host
  | transport
deriving DecidableEq, Repr

/-- One operation. Each carries its `DATA`, one untyped byte string (R78): an operation that takes no operand, or a level of one
byte, is still offered with any `DATA`, and its shape check is part of its meaning (R83). -/
inductive Instr where
  | bcc (data : Bytes)
  | encode (data : Bytes)
  | decode (data : Bytes)
  | exchStart (data : Bytes)
  | collect (data : Bytes)
  | timeout (data : Bytes)
  | readStatus (data : Bytes)
  | clearOvf (data : Bytes)
  | rxChunk (data : Bytes)
  | rxFault (data : Bytes)
  | txDoneOk (data : Bytes)
  | txDoneFail (data : Bytes)
  | linkState (data : Bytes)
deriving DecidableEq, Repr

/-- The operand bytes of an operation. -/
def Instr.data : Instr → Bytes
  | .bcc d => d
  | .encode d => d
  | .decode d => d
  | .exchStart d => d
  | .collect d => d
  | .timeout d => d
  | .readStatus d => d
  | .clearOvf d => d
  | .rxChunk d => d
  | .rxFault d => d
  | .txDoneOk d => d
  | .txDoneFail d => d
  | .linkState d => d

/-- The port an operation is offered at (R80, R81). -/
def Instr.port : Instr → Port
  | .bcc _ => .host
  | .encode _ => .host
  | .decode _ => .host
  | .exchStart _ => .host
  | .collect _ => .host
  | .timeout _ => .host
  | .readStatus _ => .host
  | .clearOvf _ => .host
  | .rxChunk _ => .transport
  | .rxFault _ => .transport
  | .txDoneOk _ => .transport
  | .txDoneFail _ => .transport
  | .linkState _ => .transport

end Sys2Proof
end

