-- ==== Sys2Proof/WellFormed.lean ====
section
/-! DEFINITION. When an operation can be written as one transaction (30_encoding.md R76). -/

namespace Sys2Proof

/-- `LEN ≤ 65535` bounds every operand (R76). Nothing else is ill-formed: an operand of the wrong shape is a transaction that the
CFE answers (R83). -/
def Instr.wellFormed (i : Instr) : Bool := decide (i.data.length ≤ maxField)

end Sys2Proof
end

