-- ==== Sys2Proof/Decode.lean ====
section
/-! DEFINITION. The transaction format (30_encoding.md R76, R77, R79 to R82): decoder, encoder, and the table's words as bytes. -/

namespace Sys2Proof

/-- A 16-bit field, most significant byte first (20_memory.md R54). -/
def be16 (n : Nat) : Bytes := [BitVec.ofNat 8 (n / 256), BitVec.ofNat 8 n]

/-- The number two bytes say, most significant byte first (R54). -/
def be16Value (hi lo : Byte) : Nat := hi.toNat * 256 + lo.toNat

/-- `OPC[7]` names the port: 0 is the Host space and 1 the Transport space (R79). -/
def portOfCode (opc : Byte) : Port := if opc.getLsbD 7 then .transport else .host

/-- The operation map of the Host port (R80). -/
def hostOperation (opc : Byte) (data : Bytes) : Option Instr :=
  match opc with
  | 0x01#8 => some (.bcc data)
  | 0x02#8 => some (.encode data)
  | 0x03#8 => some (.decode data)
  | 0x04#8 => some (.exchStart data)
  | 0x05#8 => some (.collect data)
  | 0x06#8 => some (.timeout data)
  | 0x07#8 => some (.readStatus data)
  | 0x08#8 => some (.clearOvf data)
  | _ => none

/-- The event map of the Transport port (R81). -/
def transportOperation (evt : Byte) (data : Bytes) : Option Instr :=
  match evt with
  | 0x81#8 => some (.rxChunk data)
  | 0x82#8 => some (.rxFault data)
  | 0x83#8 => some (.txDoneOk data)
  | 0x84#8 => some (.txDoneFail data)
  | 0x85#8 => some (.linkState data)
  | _ => none

/-- All eight bits of the code are compared with the map of the port it is offered at (R79); every other code is reserved (R82). -/
def operation (p : Port) (opc : Byte) (data : Bytes) : Option Instr :=
  match p with
  | .host => hostOperation opc data
  | .transport => transportOperation opc data

/-- What a decoder reads from the bytes of one transaction. -/
inductive Decoded where
  /-- an operation of the port's map -/
  | instr (i : Instr)
  /-- a whole transaction whose code is reserved at the port (R82) -/
  | reserved
  /-- fewer bytes than `3 + LEN`: not a transaction (R76) -/
  | truncated
  /-- more bytes than `3 + LEN`: not one transaction (R76) -/
  | overlong
deriving DecidableEq, Repr

/-- Reads one transaction offered at port `p`: the code, the big-endian length, and exactly `LEN` operand bytes (R76, R77, R79). -/
def decode (p : Port) : Bytes → Decoded
  | opc :: hi :: lo :: data =>
    if data.length < be16Value hi lo then .truncated
    else if be16Value hi lo < data.length then .overlong
    else
      match operation p opc data with
      | some i => .instr i
      | none => .reserved
  | _ => .truncated

/-- The code of an operation (R80, R81). -/
def opcode : Instr → Byte
  | .bcc _ => 0x01#8
  | .encode _ => 0x02#8
  | .decode _ => 0x03#8
  | .exchStart _ => 0x04#8
  | .collect _ => 0x05#8
  | .timeout _ => 0x06#8
  | .readStatus _ => 0x07#8
  | .clearOvf _ => 0x08#8
  | .rxChunk _ => 0x81#8
  | .rxFault _ => 0x82#8
  | .txDoneOk _ => 0x83#8
  | .txDoneFail _ => 0x84#8
  | .linkState _ => 0x85#8

/-- The bytes of an operation's transaction: `OPC`, `hi(LEN)`, `lo(LEN)`, `DATA` (R76, R84). -/
def encode (i : Instr) : Bytes := opcode i :: (be16 i.data.length ++ i.data)

/-- Byte `k` of an instruction whose bits are `w`, bit 0 of `w` being the least significant bit of the first byte. -/
def wordByte (w k : Nat) : Byte := BitVec.ofNat 8 (w / 2 ^ (8 * k))

/-- The transaction whose first `nbits` bits are those of `w` and whose other bits are 0: as many operand bytes as its LEN
says. -/
def tableBytes (nbits w : Nat) : Bytes :=
  let v := w % 2 ^ nbits
  let len := be16Value (wordByte v 1) (wordByte v 2)
  wordByte v 0 :: wordByte v 1 :: wordByte v 2 :: (List.range len).map fun k => wordByte v (k + 3)

/-- The port of a table word: its code's bit 7 (R79). -/
def tablePort (nbits w : Nat) : Port := portOfCode (wordByte (w % 2 ^ nbits) 0)

/-- The operation the decoder reads from an opcode-table word. -/
def decodeTableWord (nbits w : Nat) : Option Instr :=
  match decode (tablePort nbits w) (tableBytes nbits w) with
  | .instr i => some i
  | .reserved => none
  | .truncated => none
  | .overlong => none

end Sys2Proof
end

