-- ==== Sys2Proof/Machine/State.lean ====
section
/-! DEFINITION. The state of one CFE instance (10_state.md R22 to R36), the reasons a step can stop, and the state after reset
(70_reset_and_hazards.md R280). -/

namespace Sys2Proof.Machine

/-- `CSTATE`, the correlator state (R24); its 2-bit values are `CState.code` in Machine/Flags.lean. -/
inductive CState where
  | idle
  | awaiting
  | fulfilled
  | wfailed
deriving DecidableEq, Repr

/-- The result codes (60_exceptions.md R250); their byte values are `RC.code` in Machine/Flags.lean. -/
inductive RC where
  | ok
  | invalidArgument
  | transportNotReady
  | alreadyPending
  | malformedFrame
  | missingTerminator
  | timedOut
  | transportWriteError
  | busy
  | waiting
  | noExchange
  | illegalCommand
deriving DecidableEq, Repr

/-- A Host-port result: `RC`, `RLEN`, `RDATA` (30_encoding.md R76). -/
structure Result where
  rc : RC
  rlen : BitVec 16
  rdata : Bytes
deriving DecidableEq, Repr

/-- An output event (20_memory.md R50, R53). -/
inductive Event where
  /-- one write handed to the Transport (42_correlator.md R171) -/
  | txw (f : Bytes)
  /-- one unsolicited frame handed to the Observer (42_correlator.md R178) -/
  | unsol (c : Bytes)
deriving DecidableEq, Repr

/-- What an agent offers to the CFE: the bytes of a transaction at a port, or the reset input (00_scope.md R2, R11). -/
inductive Offer where
  | host (txn : Bytes)
  | transport (evt : Bytes)
  | reset
deriving DecidableEq, Repr

/-- One CFE instance: the spec's elements, the instance's parameters, and (the model's own fields) what has been offered to the
ports and what has come out of them. -/
structure State where
  /-- `RXBUF`, the reassembly buffer, earliest byte first (R22) -/
  rxbuf : Bytes
  /-- `CSTATE` (R24) -/
  cstate : CState
  /-- `RESP`, the response slot (R26, 93_implementation_defined.md U16) -/
  resp : Option Bytes
  /-- `TXBUSY` (R27) -/
  txbusy : Bool
  /-- `LINK_OPEN` (R28) -/
  linkOpen : Bool
  /-- `OVF` (R29) -/
  ovf : Bool
  /-- the instance's parameters, which no step changes (R35) -/
  params : Params
  /-- MODEL'S OWN: the transactions and resets offered and not yet taken, in the total order of 20_memory.md R58 (log 1) -/
  offers : List Offer
  /-- MODEL'S OWN: the results returned at the Host port, oldest first (log 9) -/
  results : List Result
  /-- MODEL'S OWN: the event history of 20_memory.md R53, oldest first (log 9) -/
  history : List Event
  /-- MODEL'S OWN: how many free values have been drawn (log 7) -/
  freeCount : Nat
  /-- MODEL'S OWN: which sequence of free values this instance draws from; no step changes it (log 7, 60_exceptions.md R264) -/
  freeSource : Nat
deriving DecidableEq, Repr

/-- Why the machine stops with a fault. The spec gives the CFE no trap (60_exceptions.md R255). -/
inductive Fault where
  /-- Raised by COLLECT and TIMEOUT when `CSTATE = FULFILLED` and `RESP` holds no value: R36 (a) rules that state out, no run
  reaches it, and R26 forbids the model to give `RESP` a value there. Safe (log 8). -/
  | respAbsent
deriving DecidableEq, Repr

/-- Why a step is not admitted. -/
inductive Refusal where
  /-- Raised by `exec` for an operation that has no meaning yet; no arm does. Safe. -/
  | notModelled (mnemonic : String)
  /-- Raised by a port for fewer than `3 + LEN` bytes: such a transaction cannot be offered (30_encoding.md R76,
  70_reset_and_hazards.md R284 H1). Safe (log 3). -/
  | truncatedTransaction
  /-- Raised by a port for more than `3 + LEN` bytes: such a transaction cannot be offered (R76, R284 H1). Safe (log 3). -/
  | overlongTransaction
deriving DecidableEq, Repr

/-- What a step answers. -/
abbrev StepOutcome := Host.Outcome State Fault Refusal

/-- The machine after reset: every element at the value R280 states, nothing offered, nothing put out (logs 1, 4, 5, 7, 9). -/
def State.reset : State :=
  { rxbuf := []
    cstate := .idle
    resp := none
    txbusy := false
    linkOpen := false
    ovf := false
    params := Params.reference
    offers := []
    results := []
    history := []
    freeCount := 0
    freeSource := 0 }

end Sys2Proof.Machine
end

