-- ==== Sys2Proof/Machine/Flags.lean ====
section
/-! DEFINITION. The numbers of the enumerations and the views software reads: STATUS, RXLEN_RD, RESP_READY (10_state.md R24, R25,
R32, R33; 60_exceptions.md R250, R251, R256). -/

namespace Sys2Proof.Machine

/-- The 2-bit values of `CSTATE` (R24). -/
def CState.code : CState → BitVec 2
  | .idle => 0#2
  | .awaiting => 1#2
  | .fulfilled => 2#2
  | .wfailed => 3#2

/-- The result code's byte (R250). -/
def RC.code : RC → Byte
  | .ok => 0x00#8
  | .invalidArgument => 0x01#8
  | .transportNotReady => 0x02#8
  | .alreadyPending => 0x03#8
  | .malformedFrame => 0x04#8
  | .missingTerminator => 0x05#8
  | .timedOut => 0x06#8
  | .transportWriteError => 0x07#8
  | .busy => 0x08#8
  | .waiting => 0x09#8
  | .noExchange => 0x0A#8
  | .illegalCommand => 0x0B#8

/-- The three classes of outcomes (R251). -/
inductive OutcomeClass where
  | normal
  | notFinal
  | error
deriving DecidableEq, Repr

/-- `OK` and `TimedOut` are normal, `Busy` and `Waiting` ask to try again later, every other code is an error (R251). -/
def RC.outcomeClass : RC → OutcomeClass
  | .ok => .normal
  | .timedOut => .normal
  | .busy => .notFinal
  | .waiting => .notFinal
  | .invalidArgument => .error
  | .transportNotReady => .error
  | .alreadyPending => .error
  | .malformedFrame => .error
  | .missingTerminator => .error
  | .transportWriteError => .error
  | .noExchange => .error
  | .illegalCommand => .error

/-- `PENDING`, the waiting marker (R25). -/
def pending (s : State) : Bool := s.cstate == .awaiting

/-- `STATUS`: bits 1..0 CSTATE, 2 TXBUSY, 3 LINK_OPEN, 4 OVF, 7..5 hardwired 0 (R32). -/
def statusWord (s : State) : Byte :=
  0#3 ++ BitVec.ofBool s.ovf ++ BitVec.ofBool s.linkOpen ++ BitVec.ofBool s.txbusy ++ s.cstate.code

/-- `RXLEN_RD = min(len(RXBUF), 0xFFFFFFFF)` (R33). -/
def rxlenRd (s : State) : BitVec 32 := BitVec.ofNat 32 (min s.rxbuf.length 0xFFFFFFFF)

/-- A 32-bit value as four bytes, most significant first (20_memory.md R54, 42_correlator.md R183). -/
def be32 (v : BitVec 32) : Bytes :=
  [v.extractLsb' 24 8, v.extractLsb' 16 8, v.extractLsb' 8 8, v.extractLsb' 0 8]

/-- The level output `RESP_READY` (R256). -/
def respReady (s : State) : Bool := (s.cstate == .fulfilled || s.cstate == .wfailed) && !s.txbusy

/-- The bytes of a result: `RC`, `RLEN` big-endian, `RDATA` (30_encoding.md R76). -/
def Result.bytes (r : Result) : Bytes :=
  r.rc.code :: r.rlen.extractLsb' 8 8 :: r.rlen.extractLsb' 0 8 :: r.rdata

end Sys2Proof.Machine
end

