-- ==== Sys2Proof/Machine/Ops.lean ====
section
/-! DEFINITION. The shared operations: byte sequences (00_scope.md R14), the frame (30_encoding.md R70), reads and writes of the state
elements, results and output events (R15), the delivery router (42_correlator.md R177), and reset (70_reset_and_hazards.md R280). -/

namespace Sys2Proof.Machine

/-! ### Byte sequences -/

/-- `xorfold(s)`, the XOR of every byte, 0x00 of no byte (R14, 40_codec.md R100). -/
def xorfold : Bytes → Byte
  | [] => 0#8
  | b :: s => b ^^^ xorfold s

/-- `firstIndex(s, v, from)`: the least `k ≥ from` with `k < len(s)` and `s[k] = v` (R14). -/
def firstIndex (s : Bytes) (v : Byte) (start : Nat) : Option Nat :=
  ((s.drop start).findIdx? (· == v)).map (· + start)

/-- `s[i..j]`, both ends included, `[]` when `j < i` (R14). -/
def slice (s : Bytes) (i j : Nat) : Bytes := (s.take (j + 1)).drop i

/-! ### The frame -/

/-- The bytes of a frame before its checksum: START, the payload, END (R70). -/
def frameBody (payload : Bytes) : Bytes := startByte :: (payload ++ [endByte])

/-- The frame that carries a payload: START, payload, END, and the XOR of all of these (R70, 40_codec.md R102). -/
def frameOf (payload : Bytes) : Bytes := frameBody payload ++ [xorfold (frameBody payload)]

/-- `FrameValid(c)`: at least 3 bytes, and the last is the XOR of all before it (40_codec.md R106). -/
def frameValid (c : Bytes) : Bool :=
  decide (3 ≤ c.length) && (c.getLast? == some (xorfold c.dropLast))

/-! ### Writes of the state elements (R15: `X <- v`) -/

def State.setRxbuf (b : Bytes) (s : State) : State := { s with rxbuf := b }

def State.setCstate (c : CState) (s : State) : State := { s with cstate := c }

def State.setResp (r : Option Bytes) (s : State) : State := { s with resp := r }

def State.setTxbusy (b : Bool) (s : State) : State := { s with txbusy := b }

def State.setLinkOpen (b : Bool) (s : State) : State := { s with linkOpen := b }

def State.setOvf (b : Bool) (s : State) : State := { s with ovf := b }

def State.setOffers (o : List Offer) (s : State) : State := { s with offers := o }

/-! ### Outputs -/

/-- Appends one output event to the history (20_memory.md R53). -/
def State.emit (e : Event) (s : State) : State := { s with history := s.history ++ [e] }

/-- RLEN of a result: the length of its data; a free value where the 16-bit field cannot say it (R76; log 6). -/
def resultLength (data : Bytes) (source drawn : Nat) : BitVec 16 :=
  if data.length ≤ maxField then BitVec.ofNat 16 data.length else Config.freeRlen source drawn

/-- `return (rc, data)`: the operation completes with one result at the Host port (R15, R76). -/
def State.respond (rc : RC) (data : Bytes) (s : State) : State :=
  { s with
    results := s.results ++ [{ rc := rc, rlen := resultLength data s.freeSource s.freeCount, rdata := data }]
    freeCount := if data.length ≤ maxField then s.freeCount else s.freeCount + 1 }

/-- `raise RC`: `return (RC, [])` with no other state change (R15). It stands where another machine takes an exception: the CFE
takes no trap (60_exceptions.md R255). -/
def State.raise (rc : RC) (s : State) : State := s.respond rc []

/-- `deliver(c)`: the valid frame goes to the waiting exchange, or else to the Observer (R177). -/
def State.deliver (c : Bytes) (s : State) : State :=
  match s.cstate with
  | .awaiting => (s.setResp (some c)).setCstate .fulfilled
  | .idle => s.emit (.unsol c)
  | .fulfilled => s.emit (.unsol c)
  | .wfailed => s.emit (.unsol c)

/-! ### Reset -/

/-- The reset input: every state element of R280 at its reset value; the parameters stay; no event, no result (R280). -/
def State.resetElements (s : State) : State :=
  { s with rxbuf := [], cstate := .idle, resp := none, txbusy := false, linkOpen := false, ovf := false }

end Sys2Proof.Machine
end

