-- ==== Sys2Proof/Machine/Operands.lean ====
section
/-! DEFINITION. The operand-shape checks (30_encoding.md R78, R83), made before any check of the state (60_exceptions.md R253). -/

namespace Sys2Proof.Machine

/-- The shapes an operation's `DATA` may be asked to have (R78, R80, R83). -/
inductive Shape where
  /-- `LEN = 0`: COLLECT, TIMEOUT, READ_STATUS, CLEAR_OVF -/
  | empty
  /-- `LEN ≤ MAX_FRAME_LEN - 3`: ENCODE -/
  | payload
  /-- `LEN ≤ MAX_FRAME_LEN`: DECODE, EXCH_START -/
  | frame
deriving DecidableEq, Repr

/-- Whether an operand has the shape (R83). -/
def shapeOk (sh : Shape) (p : Params) (data : Bytes) : Bool :=
  match sh with
  | .empty => decide (data.length = 0)
  | .payload => decide (data.length ≤ p.maxFrameLen - 3)
  | .frame => decide (data.length ≤ p.maxFrameLen)

/-- The shape check first, `(InvalidArgument, [])` with no state change when it fails (R83, R253); then the operation. -/
def withShape (sh : Shape) (data : Bytes) (s : State) (k : StepOutcome) : StepOutcome :=
  if shapeOk sh s.params data then k else .next (s.raise .invalidArgument)

/-- LINK_STATE's operand: exactly one byte, 0x00 closed or 0x01 open; anything else is no level (R81, R83, 42_correlator.md R182). -/
def linkLevel : Bytes → Option Bool
  | [v] => if v = 0x00#8 then some false else if v = 0x01#8 then some true else none
  | _ => none

end Sys2Proof.Machine
end

