-- ==== Sys2Proof/Machine/Codec.lean ====
section
/-! DEFINITION. The frame codec: BCC, ENCODE, DECODE (40_codec.md R101 to R105). They read and write no CFE state (20_memory.md R62). -/

namespace Sys2Proof.Machine

/-- DECODE's extraction of a payload, its checks in R104's order; the checksum byte is neither required nor checked (R103, R105). -/
def payloadOf (f : Bytes) : Except RC Bytes :=
  if f.length < 3 ∨ f.head? ≠ some startByte then .error .malformedFrame
  else
    match firstIndex f endByte 1 with
    | none => .error .missingTerminator
    | some e => .ok (slice f 1 (e - 1))

/-- BCC: the XOR of the operand (R101). -/
def execBcc (data : Bytes) (s : State) : StepOutcome :=
  .next (s.respond .ok [xorfold data])

/-- ENCODE: wrap a payload into a frame (R102). -/
def execEncode (data : Bytes) (s : State) : StepOutcome :=
  withShape .payload data s (.next (s.respond .ok (frameOf data)))

/-- DECODE: extract the payload of a frame (R103). -/
def execDecode (data : Bytes) (s : State) : StepOutcome :=
  withShape .frame data s
    (match payloadOf data with
     | .ok p => .next (s.respond .ok p)
     | .error rc => .next (s.raise rc))

end Sys2Proof.Machine
end

