-- ==== Sys2Proof/Machine/Correlator.lean ====
section
/-! DEFINITION. The exchange marker and the status operations (42_correlator.md R170 to R184). -/

namespace Sys2Proof.Machine

/-- EXCH_START: set the marker, then write the request; `AlreadyPending` is checked before `TransportNotReady`, and the operand is
not checked to be a frame (R171, R172, R173). -/
def execExchStart (data : Bytes) (s : State) : StepOutcome :=
  withShape .frame data s
    (if s.cstate ≠ .idle ∨ s.txbusy = true then .next (s.raise .alreadyPending)
     else if s.linkOpen = false then .next (s.raise .transportNotReady)
     else .next ((((s.setCstate .awaiting).setTxbusy true).emit (.txw data)).respond .ok []))

/-- The end of an exchange in FULFILLED: the frame is returned, RESP cleared, CSTATE IDLE (R179, R180). FULFILLED with no RESP is
ruled out by 10_state.md R36 (a) and stops (log 8). -/
def returnResponse (s : State) : StepOutcome :=
  match s.resp with
  | some r => .next (((s.setResp none).setCstate .idle).respond .ok r)
  | none => .fault .respAbsent

/-- The end of an exchange in WFAILED: CSTATE IDLE and `TransportWriteError` (R179, R180). -/
def returnWriteError (s : State) : StepOutcome :=
  .next ((s.setCstate .idle).raise .transportWriteError)

/-- COLLECT: the caller's wait returns (R179). -/
def execCollect (data : Bytes) (s : State) : StepOutcome :=
  withShape .empty data s
    (if s.txbusy = true then .next (s.raise .busy)
     else
       match s.cstate with
       | .idle => .next (s.raise .noExchange)
       | .awaiting => .next (s.raise .waiting)
       | .fulfilled => returnResponse s
       | .wfailed => returnWriteError s)

/-- TIMEOUT: the caller gives up; a delivery that came first is returned (R180). -/
def execTimeout (data : Bytes) (s : State) : StepOutcome :=
  withShape .empty data s
    (if s.txbusy = true then .next (s.raise .busy)
     else
       match s.cstate with
       | .idle => .next (s.raise .noExchange)
       | .awaiting => .next ((s.setCstate .idle).raise .timedOut)
       | .fulfilled => returnResponse s
       | .wfailed => returnWriteError s)

/-- READ_STATUS: STATUS, then RXLEN_RD big-endian (R183). -/
def execReadStatus (data : Bytes) (s : State) : StepOutcome :=
  withShape .empty data s (.next (s.respond .ok (statusWord s :: be32 (rxlenRd s))))

/-- CLEAR_OVF: clear the sticky overflow flag (R184). -/
def execClearOvf (data : Bytes) (s : State) : StepOutcome :=
  withShape .empty data s (.next ((s.setOvf false).respond .ok []))

/-- TX_DONE_OK: the write returned; ignored when no write is outstanding; its `DATA` is ignored (R174, R176). -/
def execTxDoneOk (_data : Bytes) (s : State) : StepOutcome :=
  if s.txbusy = true then .next (s.setTxbusy false) else .next s

/-- TX_DONE_FAIL: the write failed, a frame already delivered is discarded; ignored when no write is outstanding (R175, R176;
log 10). -/
def execTxDoneFail (_data : Bytes) (s : State) : StepOutcome :=
  if s.txbusy = true then .next (((s.setTxbusy false).setResp none).setCstate .wfailed) else .next s

/-- LINK_STATE: the link level; any other operand changes nothing (R182, 30_encoding.md R83). -/
def execLinkState (data : Bytes) (s : State) : StepOutcome :=
  match linkLevel data with
  | some v => .next (s.setLinkOpen v)
  | none => .next s

end Sys2Proof.Machine
end

