-- ==== Sys2Proof/Machine/Reassembler.lean ====
section
/-! DEFINITION. The reassembler: `Process()`, the overflow drop, RX_CHUNK and RX_FAULT (41_reassembler.md R130 to R141). -/

namespace Sys2Proof.Machine

/-- What one pass round the loop of `Process()` decides (R131). -/
inductive Pass where
  /-- `stop`, with the bytes that stay (steps 1 to 5) -/
  | stop (buf : Bytes)
  /-- step 6, match: the valid candidate, and the bytes behind it (R136) -/
  | emit (frame rest : Bytes)
  /-- step 6, mismatch: the resync drop, and the bytes behind the dropped START (R137) -/
  | drop (rest : Bytes)
deriving DecidableEq, Repr

/-- Steps 3 to 6, on a buffer whose first byte is START (R134 to R137). -/
def passFromStart (buf : Bytes) : Pass :=
  if buf.length < 3 then .stop buf
  else
    match firstIndex buf endByte 1 with
    | none => .stop buf
    | some e =>
      if buf.length ≤ e + 1 then .stop buf
      else if frameValid (slice buf 0 (e + 1)) then .emit (slice buf 0 (e + 1)) (buf.drop (e + 2))
      else .drop (buf.drop 1)

/-- One pass: steps 1 and 2 (all noise goes, R132, R133), then steps 3 to 6. -/
def pass (buf : Bytes) : Pass :=
  match firstIndex buf startByte 0 with
  | none => .stop []
  | some i => passFromStart (buf.drop i)

/-- At most `n` passes round the loop of `Process()` (R131). -/
def processLoop : Nat → State → State
  | 0, s => s
  | n + 1, s =>
    match pass s.rxbuf with
    | .stop buf => s.setRxbuf buf
    | .emit frame rest => processLoop n ((s.setRxbuf rest).deliver frame)
    | .drop rest => processLoop n (s.setRxbuf rest)

/-- `Process()`: the loop makes at most `len(RXBUF) + 1` passes (R131, R138). -/
def process (s : State) : State := processLoop (s.rxbuf.length + 1) s

/-- Whether a finite `RX_BUF_CAP` is exceeded; `INF` never is (R139). -/
def overCap (p : Params) (len : Nat) : Bool :=
  match p.rxBufCap with
  | .inf => false
  | .finite n => decide (n < len)

/-- `OverflowDrop()`: set OVF, drop the leading byte, run `Process()` (R139). -/
def overflowDrop (s : State) : State := process ((s.setOvf true).setRxbuf (s.rxbuf.drop 1))

/-- One received byte: append, `Process()`, and at most one overflow drop (R130, R139). -/
def rxByte (s : State) (b : Byte) : State :=
  let t := process (s.setRxbuf (s.rxbuf ++ [b]))
  if overCap t.params t.rxbuf.length then overflowDrop t else t

/-- RX_CHUNK: the bytes of the chunk in arrival order, as one step (R130). -/
def execRxChunk (data : Bytes) (s : State) : StepOutcome :=
  .next (data.foldl rxByte s)

/-- RX_FAULT: no state change; its `DATA` is ignored (R141). -/
def execRxFault (_data : Bytes) (s : State) : StepOutcome :=
  .next s

end Sys2Proof.Machine
end

