-- ==== Sys2Proof/Machine/Dispatch.lean ====
section
/-! DEFINITION. One arm per operation of opcode_table.json. -/

namespace Sys2Proof.Machine

def exec (i : Instr) (s : State) : Host.Outcome State Fault Refusal :=
  match i with
  | .bcc data => Sys2Proof.Machine.execBcc data s
  | .encode data => Sys2Proof.Machine.execEncode data s
  | .decode data => Sys2Proof.Machine.execDecode data s
  | .exchStart data => Sys2Proof.Machine.execExchStart data s
  | .collect data => Sys2Proof.Machine.execCollect data s
  | .timeout data => Sys2Proof.Machine.execTimeout data s
  | .readStatus data => Sys2Proof.Machine.execReadStatus data s
  | .clearOvf data => Sys2Proof.Machine.execClearOvf data s
  | .rxChunk data => Sys2Proof.Machine.execRxChunk data s
  | .rxFault data => Sys2Proof.Machine.execRxFault data s
  | .txDoneOk data => Sys2Proof.Machine.execTxDoneOk data s
  | .txDoneFail data => Sys2Proof.Machine.execTxDoneFail data s
  | .linkState data => Sys2Proof.Machine.execLinkState data s

end Sys2Proof.Machine
end

