-- ==== Sys2Proof/Machine/Ports.lean ====
section
/-! DEFINITION. What the CFE does with one offer: the two ports and the reset input (20_memory.md R50, 30_encoding.md R76, R77, R82). -/

namespace Sys2Proof.Machine

/-- One Host transaction. A reserved code returns `(IllegalCommand, [])` and changes no state (R82). -/
def takeHost (txn : Bytes) (s : State) : StepOutcome :=
  match decode .host txn with
  | .instr i => exec i s
  | .reserved => .next (s.raise .illegalCommand)
  | .truncated => .refused .truncatedTransaction
  | .overlong => .refused .overlongTransaction

/-- One Transport event. A reserved code changes no state, and no result reports it (R77, R82). -/
def takeTransport (evt : Bytes) (s : State) : StepOutcome :=
  match decode .transport evt with
  | .instr i => exec i s
  | .reserved => .next s
  | .truncated => .refused .truncatedTransaction
  | .overlong => .refused .overlongTransaction

/-- One offer, whatever its agent. -/
def takeOffer (o : Offer) (s : State) : StepOutcome :=
  match o with
  | .host txn => takeHost txn s
  | .transport evt => takeTransport evt s
  | .reset => .next s.resetElements

/-- The offer of a transaction's bytes at a port. -/
def offerAt (p : Port) (bytes : Bytes) : Offer :=
  match p with
  | .host => .host bytes
  | .transport => .transport bytes

/-- The next offer in the total order, taken whole as one atomic step (R56, R58). When nothing is offered the CFE makes no step of
its own (00_scope.md R11): the state stays (log 2). -/
def stepNext (s : State) : StepOutcome :=
  match s.offers with
  | [] => .next s
  | o :: rest => takeOffer o (s.setOffers rest)

/-- The offer of an opcode-table word at the port its code names. -/
def tableOffer (nbits w : Nat) : Offer := offerAt (tablePort nbits w) (tableBytes nbits w)

end Sys2Proof.Machine
end

