-- ==== Sys2Proof/Machine/Step.lean ====
section
/-! DEFINITION. The step of the machine, and how an instruction is placed before it. -/

namespace Sys2Proof.Machine

/-- One step: the next offered transaction or reset (20_memory.md R56, R58). -/
def step (s : State) : Host.Outcome State Fault Refusal := stepNext s

/-- The state in which the opcode-table word is the next transaction offered (log 1). -/
def State.withFetchWord (s : State) (nbits w : Nat) : State := s.setOffers (tableOffer nbits w :: s.offers)

end Sys2Proof.Machine
end

