-- ==== Sys2Proof/Machine/Builders.lean ====
section
/-! DEFINITION. The host-side payload builders (43_host_payload_builders.md R210 to R222). They bind the Host and not the CFE: no step
of the CFE calls them (00_scope.md R5). A text is its ASCII bytes (R210); a builder answers a payload, or `InvalidArgument`. -/

namespace Sys2Proof.Machine

/-- The byte of an ASCII character. PRESUMED (log 14): the codes are general knowledge (93_implementation_defined.md G1). -/
def ascii (c : Char) : Byte := BitVec.ofNat 8 c.toNat

/-- What a builder answers: a payload, or a failure code, always `InvalidArgument` (R210, R222). -/
abbrev Built := Except RC Bytes

/-- Whitespace: 0x20 and 0x09 to 0x0D (R211, decision D30; log 14). -/
def isSpace (b : Byte) : Bool := b == 0x20#8 || (decide (0x09 ≤ b.toNat) && decide (b.toNat ≤ 0x0D))

/-- `trim(t)`: no leading and no trailing whitespace (R211). -/
def trim (t : Bytes) : Bytes := ((t.dropWhile isSpace).reverse.dropWhile isSpace).reverse

/-- A text trimmed for use; empty after trimming is an `InvalidArgument` (R211). -/
def trimmed (t : Bytes) : Built :=
  if (trim t).isEmpty then .error .invalidArgument else .ok (trim t)

/-- Left-padding with `'0'` to at least `w` characters (R212, R213). -/
def padZero (w : Nat) (t : Bytes) : Bytes := List.replicate (w - t.length) (ascii '0') ++ t

/-- `station(s)` (R212). -/
def station (s : Bytes) : Built := (trimmed s).map (padZero 2)

/-- The default station `"00"` (R212). -/
def defaultStation : Bytes := [ascii '0', ascii '0']

/-- The default of WRITE_NUM's hex flag: true (R217, 93_implementation_defined.md U4). -/
def defaultHex : Bool := true

/-- One digit, `0-9A-F` (R213, R214). -/
def digit (d : Nat) : Byte := if d < 10 then ascii '0' + BitVec.ofNat 8 d else ascii 'A' + BitVec.ofNat 8 (d - 10)

/-- The lowest `w` digits of `n` in a base, most significant first. -/
def digits (base : Nat) : Nat → Nat → Bytes
  | 0, _ => []
  | w + 1, n => digits base w (n / base) ++ [digit (n % base)]

/-- How many decimal digits a number needs, at least one; `fuel` bounds the count. -/
def decimalWidth : Nat → Nat → Nat
  | 0, _ => 1
  | fuel + 1, n => if n < 10 then 1 else decimalWidth fuel (n / 10) + 1

/-- The plain decimal text of a number, with no padding (R217). -/
def plainDecimal (n : Nat) : Bytes := digits 10 (decimalWidth n n) n

/-- A fixed-width field: negative or too wide is an `InvalidArgument` (R213, R214, decision D30). -/
def fixedField (base w : Nat) (n : Int) : Built :=
  if n < 0 then .error .invalidArgument
  else if (base ^ w : Nat) ≤ n.toNat then .error .invalidArgument
  else .ok (digits base w n.toNat)

/-- `dec(n, w)` (R213). -/
def dec (n : Int) (w : Nat) : Built := fixedField 10 w n

/-- `hex4(v)` (R214). -/
def hex4 (v : Int) : Built := fixedField 16 4 v

/-- Parts in order, one after another; the first failure is the result (R222). -/
def joinParts : List Built → Built
  | [] => .ok []
  | p :: ps =>
    match p with
    | .error rc => .error rc
    | .ok t => (joinParts ps).map (t ++ ·)

/-- A command tag of three characters. -/
def tag (a b c : Char) : Built := .ok [ascii a, ascii b, ascii c]

/-- `dec(len(t), 2) ++ t` for the trimmed text (R215, R216, R218, R219). -/
def lengthPrefixed (t : Bytes) : Built :=
  match trimmed t with
  | .error rc => .error rc
  | .ok u => joinParts [dec u.length 2, .ok u]

/-- A check that is made before the parts are built (R222). -/
def checked (good : Bool) : Built := if good then .ok [] else .error .invalidArgument

/-- `READ(addrs, st = "00")`, tag `RSS` (R215). -/
def buildRead (addrs : List Bytes) (st : Bytes := defaultStation) : Built :=
  joinParts ([station st, checked (!addrs.isEmpty), tag 'R' 'S' 'S', dec addrs.length 2] ++ addrs.map lengthPrefixed)

/-- `WRITE(addrs, vals, st = "00")`, tag `WSS` (R216). -/
def buildWrite (addrs vals : List Bytes) (st : Bytes := defaultStation) : Built :=
  joinParts
    ([station st, checked (!addrs.isEmpty && !vals.isEmpty), checked (vals.length == addrs.length), tag 'W' 'S' 'S',
      dec addrs.length 2] ++
     List.zipWith (fun a v => joinParts [lengthPrefixed a, lengthPrefixed v]) addrs vals)

/-- The text of one number of WRITE_NUM: `hex4`, or the plain decimal text (R217). -/
def numberText (hex : Bool) (n : Int) : Built :=
  if n < 0 then .error .invalidArgument
  else if hex then hex4 n
  else .ok (plainDecimal n.toNat)

/-- Every number's text, in order; the first failure is the result. -/
def numberTexts (hex : Bool) : List Int → Except RC (List Bytes)
  | [] => .ok []
  | n :: ns =>
    match numberText hex n with
    | .error rc => .error rc
    | .ok t => (numberTexts hex ns).map (t :: ·)

/-- `WRITE_NUM(addrs, nums, hex = true, st = "00")`: render each number, then WRITE (R217). -/
def buildWriteNum (addrs : List Bytes) (nums : List Int) (hex : Bool := defaultHex) (st : Bytes := defaultStation) : Built :=
  match numberTexts hex nums with
  | .error rc => .error rc
  | .ok texts => buildWrite addrs texts st

/-- `READ_BLOCK(start, count, st = "00")`, tag `RSB` (R218). -/
def buildReadBlock (start : Bytes) (count : Int) (st : Bytes := defaultStation) : Built :=
  joinParts [station st, tag 'R' 'S' 'B', lengthPrefixed start, dec count 2]

/-- `WRITE_BLOCK(start, words, st = "00")`, tag `WSB` (R219). -/
def buildWriteBlock (start : Bytes) (words : List Int) (st : Bytes := defaultStation) : Built :=
  joinParts
    ([station st, checked (!words.isEmpty), tag 'W' 'S' 'B', lengthPrefixed start, dec words.length 2,
      dec (4 * words.length : Nat) 4] ++ words.map hex4)

end Sys2Proof.Machine
end

