-- ==== Sys2Proof/Machine/Agents.lean ====
section
/-! DEFINITION. The external agents and their duties (00_scope.md R11, R12; 70_reset_and_hazards.md R284): the Host's EXCHANGE sequence
(42_correlator.md R185), the Transport's outstanding writes, the Observer. Nothing here is CFE state (10_state.md R35). -/

namespace Sys2Proof.Machine

/-! ### The world: the CFE with its Host, its Transport and its Observer -/

/-- Who may make a step (00_scope.md R11, R12); reset is an input of the CFE (70_reset_and_hazards.md R280). -/
inductive Agent where
  | host
  | transport
  | observer
  | resetInput
deriving DecidableEq, Repr

/-- What an agent does next. Host transactions are raw bytes (R80); the Transport's events are those of R81; the Observer accepts one
unsolicited frame (R178). -/
inductive Action where
  | host (txn : Bytes)
  | rxChunk (data : Bytes)
  | rxFault
  | txDone (succeeded : Bool)
  | linkChange (isOpen : Bool)
  | accept
  | reset
deriving DecidableEq, Repr

/-- Whose step an action is (R12). -/
def Action.agent : Action → Agent
  | .host _ => .host
  | .rxChunk _ => .transport
  | .rxFault => .transport
  | .txDone _ => .transport
  | .linkChange _ => .transport
  | .accept => .observer
  | .reset => .resetInput

/-- The offer an action makes to the CFE; LINK_STATE reports each change of `IsOpen` (R284 T4). The Observer makes none: it has no
port into the CFE (60_exceptions.md R260). -/
def Action.offer : Action → Option Offer
  | .host txn => some (.host txn)
  | .rxChunk d => some (.transport (encode (.rxChunk d)))
  | .rxFault => some (.transport (encode (.rxFault [])))
  | .txDone true => some (.transport (encode (.txDoneOk [])))
  | .txDone false => some (.transport (encode (.txDoneFail [])))
  | .linkChange true => some (.transport (encode (.linkState [0x01#8])))
  | .linkChange false => some (.transport (encode (.linkState [0x00#8])))
  | .accept => none
  | .reset => some .reset

/-- A CFE instance; the writes its Transport has received since the last reset and not answered (R284); the frames that `UNSOL` has
handed to its Observer and the Observer has not accepted yet, and those it has accepted (R178; log 19). Oldest first. -/
structure World where
  cfe : State
  unanswered : List Bytes
  handed : List Bytes
  observed : List Bytes
deriving DecidableEq, Repr

/-- The world after reset. -/
def World.reset : World := { cfe := State.reset, unanswered := [], handed := [], observed := [] }

/-- The frames of the `TXW` events among some events. -/
def writesOf : List Event → List Bytes
  | [] => []
  | .txw f :: es => f :: writesOf es
  | .unsol _ :: es => writesOf es

/-- The frames of the `UNSOL` events among some events. -/
def unsolicitedOf : List Event → List Bytes
  | [] => []
  | .txw _ :: es => unsolicitedOf es
  | .unsol c :: es => c :: unsolicitedOf es

/-- The duties an action must meet (R284): whole transactions (H1), chunks that a transaction can carry (R76), and an answer only to
a write received since the last reset and not yet answered (T1, T2). The Observer's is never to refuse a frame (O1). -/
def World.dutyMet (a : Action) (w : World) : Bool :=
  match a with
  | .host txn => decode .host txn != .truncated && decode .host txn != .overlong
  | .rxChunk d => decide (d.length ≤ maxField)
  | .rxFault => true
  | .txDone _ => !w.unanswered.isEmpty
  | .linkChange _ => true
  | .accept => true
  | .reset => true

/-- The writes outstanding once an action has been made: an answer answers the oldest, and a reset of the CFE resets the Transport
(R284 T2; log 13). -/
def outstandingAfter (a : Action) (unanswered : List Bytes) : List Bytes :=
  match a with
  | .txDone _ => unanswered.drop 1
  | .reset => []
  | .host _ => unanswered
  | .rxChunk _ => unanswered
  | .rxFault => unanswered
  | .linkChange _ => unanswered
  | .accept => unanswered

/-- A step of the CFE at the offer an action has made: one atomic step, whose new events are handed to the Transport and to the
Observer (20_memory.md R50, R56, R58). -/
def World.offered (a : Action) (o : Offer) (w : World) : Host.Outcome World Fault Refusal :=
  match step (w.cfe.setOffers (o :: w.cfe.offers)) with
  | .next t =>
    let fresh := t.history.drop w.cfe.history.length
    .next
      { cfe := t
        unanswered := outstandingAfter a w.unanswered ++ writesOf fresh
        handed := w.handed ++ unsolicitedOf fresh
        observed := w.observed }
  | .fault r => .fault r
  | .refused r => .refused r

/-- The Observer's step: it accepts the oldest frame handed to it; the CFE never waits for it (R178, R284 O1; log 19). -/
def World.acceptOne (w : World) : World :=
  match w.handed with
  | [] => w
  | c :: later => { w with handed := later, observed := w.observed ++ [c] }

/-- One step of the world: some agent's action, in any order (R12, 20_memory.md R58). -/
def World.act (a : Action) (w : World) : Host.Outcome World Fault Refusal :=
  match a.offer with
  | some o => w.offered a o
  | none => .next w.acceptOne

/-! ### The Host: one transaction and its result, the EXCHANGE sequence, the builders' request and response -/

/-- A result with no data, as a caller of the Host's sequences gets it. -/
def emptyResult (rc : RC) : Result := { rc := rc, rlen := 0#16, rdata := [] }

/-- A Host transaction offered now: the CFE takes it, and the Host reads its result, the last one returned (R76). `none` of a result
cannot happen: the CFE answers every Host transaction. DESIGN CHOICE (log 20): an operand of more than 65535 bytes, which no transaction
can carry (R76), is not offered; the Host's outcome is `InvalidArgument`, the code of every operand that is too long (R83), and the
CFE takes no step. -/
def hostCall (i : Instr) (s : State) : Host.Outcome (Option Result × State) Fault Refusal :=
  if i.wellFormed then
    match step (s.setOffers (.host (encode i) :: s.offers)) with
    | .next t => .next (t.results.getLast?, t)
    | .fault r => .fault r
    | .refused r => .refused r
  else .next (some (emptyResult .invalidArgument), s)

/-- Where a caller of `EXCHANGE(f, T)` stands (R185). -/
inductive Phase where
  /-- about to issue EXCH_START -/
  | starting (frame : Bytes)
  /-- waiting until `STATUS.TXBUSY = 0`: the caller's Write has not returned -/
  | writing
  /-- the timer T runs; waiting until `RESP_READY = 1` or T has expired -/
  | waiting
  /-- saw `RESP_READY = 1`; about to issue COLLECT (log 18) -/
  | collecting
  /-- saw T expired with `RESP_READY = 0`; about to issue TIMEOUT (log 18) -/
  | timingOut
  /-- returned to the caller -/
  | finished (r : Result)
  /-- its exchange was reset away: no result (70_reset_and_hazards.md R281; log 21) -/
  | abandoned
deriving DecidableEq, Repr

/-- The caller's next phase once it has EXCH_START's result (R185). -/
def afterStart (r : Result) : Phase := if r.rc = .ok then .writing else .finished r

/-- The caller's next phase once it has READ_STATUS's result: STATUS bit 2 is TXBUSY (10_state.md R32; log 15). -/
def afterStatus (r : Result) : Phase :=
  match r.rdata with
  | status :: _ => if status.getLsbD 2 then .writing else .waiting
  | [] => .writing

/-- The caller's next phase once it has COLLECT's or TIMEOUT's result (R185). -/
def afterWait (r : Result) : Phase := if r.rc = .waiting then .waiting else .finished r

/-- One transaction of a caller: its next phase from the result. -/
def callerCall (i : Instr) (after : Result → Phase) (ph : Phase) (s : State) :
    Host.Outcome (Phase × State) Fault Refusal :=
  match hostCall i s with
  | .next (some r, t) => .next (after r, t)
  | .next (none, t) => .next (ph, t)
  | .fault r => .fault r
  | .refused r => .refused r

/-- One step of the EXCHANGE sequence (R185). `expired` says whether the timer T, which the Host owns, has expired (60_exceptions.md
R261, R263; log 11); a TIMEOUT is issued only after that (R284 H3). DESIGN CHOICE (log 18), safe: the caller's test and the transaction
it decides on are two steps, so that another agent's step may fall between them, or not; R185 does not say. Only the caller whose
EXCH_START returned `OK` gets to COLLECT or TIMEOUT (H2), and a caller that got `AlreadyPending` is finished (H4). A caller whose exchange
was reset away (`exchangeReset`) issues nothing more and gets no result (R281, H2; R185 has no exit for it: DESIGN CHOICE, log 21). -/
def exchangeStep (expired : Bool) (ph : Phase) (s : State) : Host.Outcome (Phase × State) Fault Refusal :=
  match ph with
  | .starting f => callerCall (.exchStart f) afterStart ph s
  | .writing => callerCall (.readStatus []) afterStatus ph s
  | .waiting =>
    if respReady s then .next (.collecting, s)
    else if expired then .next (.timingOut, s)
    else .next (.waiting, s)
  | .collecting => callerCall (.collect []) afterWait ph s
  | .timingOut => callerCall (.timeout []) afterWait ph s
  | .finished r => .next (.finished r, s)
  | .abandoned => .next (.abandoned, s)

/-- What a reset leaves of a caller: an exchange in progress is abandoned (R281); a call that has not started, or has returned, is not
touched. DESIGN CHOICE (log 21): the caller leaves R185's sequence there. -/
def Phase.onReset : Phase → Phase
  | .starting f => .starting f
  | .writing => .abandoned
  | .waiting => .abandoned
  | .collecting => .abandoned
  | .timingOut => .abandoned
  | .finished r => .finished r
  | .abandoned => .abandoned

/-- The reset input at the CFE. -/
def resetCall (s : State) : Host.Outcome State Fault Refusal := step (s.setOffers (.reset :: s.offers))

/-- The reset step of a run with a caller of EXCHANGE (R281; log 21). -/
def exchangeReset (ph : Phase) (s : State) : Host.Outcome (Phase × State) Fault Refusal :=
  match resetCall s with
  | .next t => .next (ph.onReset, t)
  | .fault r => .fault r
  | .refused r => .refused r

/-- A builder's request: a failed builder issues no CFE operation (R210), else the host issues `ENCODE P`; the frame starts the
EXCHANGE (30_encoding.md R85). DESIGN CHOICE (log 17): where that ENCODE itself fails, its result code is the request's outcome and
no EXCHANGE follows; R85, R185, R210 and R221 do not say. A payload of more than 65535 bytes, which no ENCODE transaction can carry,
is `InvalidArgument` (log 20). -/
def requestFrame (p : Built) (s : State) : Host.Outcome (Except RC Bytes × State) Fault Refusal :=
  match p with
  | .error rc => .next (.error rc, s)
  | .ok payload =>
    match hostCall (.encode payload) s with
    | .next (some r, t) => .next (if r.rc = .ok then .ok r.rdata else .error r.rc, t)
    | .next (none, t) => .next (.error .invalidArgument, t)
    | .fault r => .fault r
    | .refused r => .refused r

/-- A builder's response: DECODE of the response frame, its error if it fails; any other outcome of EXCHANGE passes through
unchanged (43_host_payload_builders.md R221, which names `TimedOut` and a transport error; the other codes are DESIGN CHOICE, log 17). A
response frame of more than 65535 bytes, which log 6 admits and no DECODE transaction can carry, is `InvalidArgument` (log 20). -/
def parseResponse (r : Result) (s : State) : Host.Outcome (Option Result × State) Fault Refusal :=
  if r.rc = .ok then hostCall (.decode r.rdata) s else .next (some r, s)

/-! ### A builder's whole request (R85, R221) -/

/-- A call of one of the builders (R85, R215 to R219). -/
inductive Request where
  | read (addrs : List Bytes) (station : Bytes)
  | write (addrs vals : List Bytes) (station : Bytes)
  | writeNum (addrs : List Bytes) (nums : List Int) (hex : Bool) (station : Bytes)
  | readBlock (start : Bytes) (count : Int) (station : Bytes)
  | writeBlock (start : Bytes) (words : List Int) (station : Bytes)
deriving DecidableEq, Repr

/-- The payload `P` that the call builds, or its failure (R85, R210). -/
def Request.payload : Request → Built
  | .read addrs st => buildRead addrs st
  | .write addrs vals st => buildWrite addrs vals st
  | .writeNum addrs nums hex st => buildWriteNum addrs nums hex st
  | .readBlock start count st => buildReadBlock start count st
  | .writeBlock start words st => buildWriteBlock start words st

/-- Where the caller of a builder stands (R85, R221). -/
inductive RequestPhase where
  /-- about to build `P` and issue `ENCODE P` -/
  | building (q : Request)
  /-- in the EXCHANGE of ENCODE's frame -/
  | exchanging (ph : Phase)
  /-- EXCHANGE has returned; about to DECODE the response -/
  | parsing (r : Result)
  /-- returned to the caller -/
  | done (r : Result)
deriving DecidableEq, Repr

/-- After `ENCODE P`: the EXCHANGE starts with its frame (R85); a failed builder or ENCODE is the outcome (R210; log 17). -/
def afterEncode : Except RC Bytes → RequestPhase
  | .ok f => .exchanging (.starting f)
  | .error rc => .done (emptyResult rc)

/-- After one step of the EXCHANGE: its result goes to the parsing of the response (R221). -/
def afterExchange : Phase → RequestPhase
  | .finished r => .parsing r
  | .starting f => .exchanging (.starting f)
  | .writing => .exchanging .writing
  | .waiting => .exchanging .waiting
  | .collecting => .exchanging .collecting
  | .timingOut => .exchanging .timingOut
  | .abandoned => .exchanging .abandoned

/-- One step of a builder's whole request: build `P`, `ENCODE P`, EXCHANGE, DECODE of the response (R85, R185, R221). Each Host
transaction is a step of its own, as in `exchangeStep`, so any other agent's step may fall between two of them (20_memory.md R58). -/
def requestStep (expired : Bool) (ph : RequestPhase) (s : State) : Host.Outcome (RequestPhase × State) Fault Refusal :=
  match ph with
  | .building q =>
    match requestFrame q.payload s with
    | .next (out, t) => .next (afterEncode out, t)
    | .fault r => .fault r
    | .refused r => .refused r
  | .exchanging ex =>
    match exchangeStep expired ex s with
    | .next (after, t) => .next (afterExchange after, t)
    | .fault r => .fault r
    | .refused r => .refused r
  | .parsing r =>
    match parseResponse r s with
    | .next (some out, t) => .next (.done out, t)
    | .next (none, t) => .next (.parsing r, t)
    | .fault f => .fault f
    | .refused f => .refused f
  | .done r => .next (.done r, s)

/-- What a reset leaves of a builder's caller: its EXCHANGE as `Phase.onReset` says. A call that is not in an exchange goes on: ENCODE and
DECODE read no CFE state that a reset changes (R281; log 21). -/
def RequestPhase.onReset : RequestPhase → RequestPhase
  | .building q => .building q
  | .exchanging ph => .exchanging ph.onReset
  | .parsing r => .parsing r
  | .done r => .done r

/-- The reset step of a run with a builder's caller (R281; log 21). -/
def requestReset (ph : RequestPhase) (s : State) : Host.Outcome (RequestPhase × State) Fault Refusal :=
  match resetCall s with
  | .next t => .next (ph.onReset, t)
  | .fault r => .fault r
  | .refused r => .refused r

end Sys2Proof.Machine
end

