-- ==== Sys2Proof/Machine/System.lean ====
section
/-! DEFINITION. Several CFE instances: each has its own copy of every state element, and they share nothing (60_exceptions.md R264,
00_scope.md R8). -/

namespace Sys2Proof.Machine

/-- The instances of a system; `NUM_INSTANCES` is their number, at least 1 (R8; log 12). -/
structure System where
  instances : List State
  atLeastOne : 1 ≤ instances.length
deriving DecidableEq, Repr

/-- `NUM_INSTANCES` of a system. -/
def System.numInstances (sys : System) : Nat := sys.instances.length

/-- The system of the given parameters after reset (R8, 70_reset_and_hazards.md R283): every instance has the same ones
(log 12), and each draws its free values from a sequence of its own (R264; log 7). -/
def System.reset (p : SystemParams) (h : p.inRange = true) : System :=
  { instances := (List.range p.numInstances).map fun k => { State.reset with params := p.ofEach, freeSource := k }
    atLeastOne := by
      simp only [SystemParams.inRange, Bool.and_eq_true, decide_eq_true_eq] at h
      simpa using h.1 }

/-- Instance `k` at a new state. -/
def System.setInstance (k : Nat) (t : State) (sys : System) : System :=
  { instances := sys.instances.set k t, atLeastOne := by simpa using sys.atLeastOne }

/-- One step of instance `k`; `none` when there is no such instance. -/
def System.step (k : Nat) (sys : System) : Option (Host.Outcome System Fault Refusal) :=
  match sys.instances[k]? with
  | none => none
  | some s =>
    match Machine.step s with
    | .next t => some (.next (sys.setInstance k t))
    | .fault r => some (.fault r)
    | .refused r => some (.refused r)

end Sys2Proof.Machine
end

