-- ==== Sys2Proof/Safety.lean ====
section
/-! DEFINITION. What a good state is (10_state.md R23, R26, R29, R36; 00_scope.md R8), and the words the statements use. -/

namespace Sys2Proof.Machine

/-! ### The invariant of a state -/

/-- R23 (a), (b), (c): empty; or a START that no END follows; or a START whose first following END is the last byte. -/
def atRest (buf : Bytes) : Bool :=
  buf.isEmpty ||
  (buf.head? == some startByte &&
    (firstIndex buf endByte 1 == none || firstIndex buf endByte 1 == some (buf.length - 1)))

/-- The finite capacity is respected (R23), and with `INF` the overflow flag stays 0 (R29). -/
def capRespected (s : State) : Bool :=
  match s.params.rxBufCap with
  | .inf => !s.ovf
  | .finite n => decide (s.rxbuf.length ≤ n)

/-- R36 (a): `RESP` has a value exactly when `CSTATE = FULFILLED`. -/
def respMatches (s : State) : Bool := s.resp.isSome == (s.cstate == .fulfilled)

/-- R36 (d): `TXBUSY = 1` implies `CSTATE` is AWAITING or FULFILLED. -/
def busyInExchange (s : State) : Bool := !s.txbusy || s.cstate == .awaiting || s.cstate == .fulfilled

/-- A whole frame as the reassembler emits it: START, a payload with no END, END, the checksum (41_reassembler.md R135, R136). -/
def wholeFrame (c : Bytes) : Bool :=
  let payload := slice c 1 (c.length - 3)
  c == frameOf payload && !payload.contains endByte

/-- R26: what `RESP` holds is one whole frame. -/
def respWhole (s : State) : Bool :=
  match s.resp with
  | some c => wholeFrame c
  | none => true

/-- The invariant of every reachable state: R8's ranges, R23, R26, R29, and R36 (a), (c), (d). R36 (b), which speaks of the
Transport, is `World.booksKept`. -/
def invariant (s : State) : Bool :=
  s.params.inRange && atRest s.rxbuf && capRespected s && respMatches s && respWhole s && busyInExchange s

/-! ### The world -/

/-- R36 (b): exactly one `TXW` is unanswered while `TXBUSY = 1`, and none while it is 0; and what the Observer has accepted, and
then what it has still to accept, are exactly the `UNSOL` frames of the history, in order (42_correlator.md R178). -/
def World.booksKept (w : World) : Bool :=
  w.unanswered.length == (if w.cfe.txbusy then 1 else 0) && w.observed ++ w.handed == unsolicitedOf w.cfe.history

/-! ### Words for statements -/

/-- An operation's code, and the port it is offered at (30_encoding.md R80, R81): the "Encoding" line of its rule. -/
def codedAs (i : Instr) (code : Byte) (p : Port) : Prop := opcode i = code ∧ i.port = p

/-- The state after one result whose length RLEN can say (30_encoding.md R76). -/
def answered (rc : RC) (data : Bytes) (s : State) : State :=
  { s with results := s.results ++ [{ rc := rc, rlen := BitVec.ofNat 16 data.length, rdata := data }] }

/-- Where frames go, in order: the first to a waiting exchange, every other one to the Observer (42_correlator.md R177). -/
def routed (frames : List Bytes) (s : State) : State :=
  match s.cstate, frames with
  | .awaiting, c :: later =>
    { s with cstate := .fulfilled, resp := some c, history := s.history ++ later.map .unsol }
  | _, _ => { s with history := s.history ++ frames.map .unsol }

/-- At most `n` passes round the loop of `Process()` over the buffer alone: the bytes that stay, and every frame that a pass emits, in
order (41_reassembler.md R131, R136). -/
def scan : Nat → Bytes → Bytes × List Bytes
  | 0, buf => (buf, [])
  | n + 1, buf =>
    match pass buf with
    | .stop left => (left, [])
    | .emit frame rest => ((scan n rest).1, frame :: (scan n rest).2)
    | .drop rest => scan n rest

/-- `Process()` over the buffer alone (R131, R138). -/
def reassembled (buf : Bytes) : Bytes × List Bytes := scan (buf.length + 1) buf

/-- One received byte over the buffer alone: the buffer left, the frames emitted, and whether it overflowed (R130, R139). -/
def receivedByte (p : Params) (buf : Bytes) (b : Byte) : Bytes × List Bytes × Bool :=
  let first := reassembled (buf ++ [b])
  if overCap p first.1.length then
    let again := reassembled (first.1.drop 1)
    (again.1, first.2 ++ again.2, true)
  else (first.1, first.2, false)

/-- A received chunk over the buffer alone, byte by byte (R130). -/
def received (p : Params) : Bytes → Bytes → Bytes × List Bytes × Bool
  | buf, [] => (buf, [], false)
  | buf, b :: d =>
    let now := receivedByte p buf b
    let later := received p now.1 d
    (later.1, now.2.1 ++ later.2.1, now.2.2 || later.2.2)

/-- Several chunks delivered one after another. -/
def rxChunks : List Bytes → State → StepOutcome
  | [], s => .next s
  | d :: ds, s =>
    match exec (.rxChunk d) s with
    | .next t => rxChunks ds t
    | .fault r => .fault r
    | .refused r => .refused r

/-- An outcome with its next state changed by `f`. -/
def mapNext (f : State → State) : StepOutcome → StepOutcome
  | .next s => .next (f s)
  | .fault r => .fault r
  | .refused r => .refused r

/-- The same instance behind a transport of another line bit order (00_scope.md R9). -/
def withBitOrder (b : BitOrder) (s : State) : State := { s with params := { s.params with lineBitOrder := b } }

/-- The number that digits say in a base, most significant first; a digit is one of `0-9A-F` (43_host_payload_builders.md R213,
R214). -/
def digitsValue (base : Nat) (t : Bytes) : Nat :=
  t.foldl (fun acc b => acc * base + (if b.toNat < 0x41 then b.toNat - 0x30 else b.toNat - 0x41 + 10)) 0

end Sys2Proof.Machine
end

