-- ==== Sys2Proof/Certificates/Slice0/Obligations.lean ====
section
/-! DEFINITION. The statements for the provers. Each docstring names the rule of spec/ it formalises, or says that it is the model's
choice and names the log entry. -/

open Sys2Proof Sys2Proof.Machine

/-! ### Encoding -/

/-- Words written out from 30_encoding.md R76, R80, R81 and R84 decode to the operations they stand for. -/
def Obligations.SpecWordsDecode : Prop :=
  decode .host [0x02#8, 0x00#8, 0x01#8, 0x41#8] = .instr (.encode [0x41#8]) ∧
  decode .host [0x04#8, 0x00#8, 0x04#8, 0x05#8, 0x41#8, 0x04#8, 0x40#8] =
    .instr (.exchStart [0x05#8, 0x41#8, 0x04#8, 0x40#8]) ∧
  decode .host [0x06#8, 0x00#8, 0x00#8] = .instr (.timeout []) ∧
  decode .host [0x07#8, 0x00#8, 0x00#8] = .instr (.readStatus []) ∧
  decode .transport [0x81#8, 0x00#8, 0x02#8, 0x05#8, 0x41#8] = .instr (.rxChunk [0x05#8, 0x41#8]) ∧
  decode .transport [0x85#8, 0x00#8, 0x01#8, 0x01#8] = .instr (.linkState [0x01#8]) ∧
  decode .host [0x85#8, 0x00#8, 0x01#8, 0x01#8] = .reserved ∧
  decode .transport [0x02#8, 0x00#8, 0x01#8, 0x41#8] = .reserved

/-- Decoder and encoder agree, in both directions: what a port decodes is exactly what the encoder writes for a well-formed operation
of that port. -/
def Obligations.DecodeAndEncodeAgree : Prop :=
  ∀ (p : Port) (bytes : Bytes) (i : Instr),
    decode p bytes = .instr i ↔ i.wellFormed = true ∧ i.port = p ∧ encode i = bytes

/-- R82: a whole transaction with a reserved code returns `IllegalCommand` on the Host port and is ignored on the Transport port,
and changes no state. -/
def Obligations.ReservedCodesChangeNoState : Prop :=
  ∀ (s : State) (code : Byte) (data : Bytes) (rest : List Offer), data.length ≤ 65535 →
    ((code.toNat = 0x00 ∨ (0x09 ≤ code.toNat ∧ code.toNat ≤ 0x7F) ∨ 0x80 ≤ code.toNat) →
      step { s with offers := .host (code :: (be16 data.length ++ data)) :: rest } =
        .next (answered .illegalCommand [] { s with offers := rest })) ∧
    ((code.toNat ≤ 0x80 ∨ 0x86 ≤ code.toNat) →
      step { s with offers := .transport (code :: (be16 data.length ++ data)) :: rest } =
        .next { s with offers := rest })

/-- A step at an offered transaction that decodes to an operation is that operation's meaning, once the offer is taken (R56, R58). That
offers wait in a list is the model's choice (log 1). -/
def Obligations.StepRunsTheOfferedOperation : Prop :=
  ∀ (s : State) (p : Port) (bytes : Bytes) (i : Instr) (rest : List Offer), decode p bytes = .instr i →
    step { s with offers := offerAt p bytes :: rest } = exec i { s with offers := rest }

/-- THE MODEL'S CHOICE (log 2): when nothing is offered, a step leaves the state as it is; the CFE makes no step of its own. -/
def Obligations.NothingOfferedNothingChanges : Prop :=
  ∀ s : State, s.offers = [] → step s = .next s

/-- THE MODEL'S CHOICE (log 3): bytes that are not exactly `3 + LEN` long are refused by name; R76 says they cannot be offered. -/
def Obligations.BytesThatAreNotWholeAreRefused : Prop :=
  ∀ (s : State) (p : Port) (code : Byte) (n : Nat) (data : Bytes) (rest : List Offer), n ≤ 65535 →
    (data.length < n →
      step { s with offers := offerAt p (code :: (be16 n ++ data)) :: rest } = .refused .truncatedTransaction) ∧
    (n < data.length →
      step { s with offers := offerAt p (code :: (be16 n ++ data)) :: rest } = .refused .overlongTransaction)

/-! ### Reset -/

/-- R280: the reset input sets every state element to its reset value, emits no event, returns no result, and changes no parameter;
the machine's state after reset has the same values. -/
def Obligations.ResetSetsEveryElement : Prop :=
  (∀ (s : State) (rest : List Offer),
    step { s with offers := .reset :: rest } =
      .next { rxbuf := [], cstate := .idle, resp := none, txbusy := false, linkOpen := false, ovf := false,
              params := s.params, offers := rest, results := s.results, history := s.history, freeCount := s.freeCount,
              freeSource := s.freeSource }) ∧
  (∀ s : State, statusWord s.resetElements = 0x00#8 ∧ rxlenRd s.resetElements = 0#32 ∧ respReady s.resetElements = false) ∧
  State.reset.resetElements = State.reset

/-! ### Codec -/

/-- R100: the fold of no byte, of a concatenation, of a doubled byte; its bits are column parities; the order does not matter. -/
def Obligations.XorfoldIsColumnParity : Prop :=
  xorfold [] = 0x00#8 ∧
  (∀ s t : Bytes, xorfold (s ++ t) = xorfold s ^^^ xorfold t) ∧
  (∀ x : Byte, xorfold [x, x] = 0x00#8) ∧
  (∀ s t : Bytes, s.Perm t → xorfold s = xorfold t) ∧
  (∀ (s : Bytes) (k : Nat), (xorfold s).getLsbD k = decide ((s.countP fun b => b.getLsbD k) % 2 = 1))

/-- R70, R71, R72: the layout of a frame, its length, its checksum in terms of the payload alone, and the receiver's two equal
tests. -/
def Obligations.FrameLayoutAndParity : Prop :=
  (∀ p : Bytes,
    frameOf p = [0x05#8] ++ p ++ [0x04#8] ++ [xorfold ([0x05#8] ++ p ++ [0x04#8])] ∧
    (frameOf p).length = p.length + 3 ∧
    xorfold ([0x05#8] ++ p ++ [0x04#8]) = 0x01#8 ^^^ xorfold p ∧
    xorfold (frameOf p) = 0x00#8) ∧
  (∀ (c : Bytes) (b : Byte), b = xorfold c ↔ xorfold (c ++ [b]) = 0x00#8)

/-- R101: BCC returns the XOR of its operand, whatever its length, and changes nothing else; a whole frame gives 0x00. -/
def Obligations.BccReturnsTheChecksum : Prop :=
  (∀ (s : State) (data : Bytes), codedAs (.bcc data) 0x01#8 .host ∧
    exec (.bcc data) s = .next (answered .ok [xorfold data] s)) ∧
  (∀ s : State, exec (.bcc []) s = .next (answered .ok [0x00#8] s)) ∧
  (∀ (s : State) (p : Bytes), exec (.bcc (frameOf p)) s = .next (answered .ok [0x00#8] s))

/-- R102: ENCODE returns START, the payload unchanged, END, and the XOR of all of these; a payload too long for `MAX_FRAME_LEN` is an
`InvalidArgument`; nothing else changes. -/
def Obligations.EncodeWrapsThePayload : Prop :=
  ∀ (s : State) (p : Bytes), s.params.inRange = true → codedAs (.encode p) 0x02#8 .host ∧
    exec (.encode p) s =
      .next (if s.params.maxFrameLen - 3 < p.length then answered .invalidArgument [] s
             else answered .ok ([0x05#8] ++ p ++ [0x04#8] ++ [xorfold ([0x05#8] ++ p ++ [0x04#8])]) s)

/-- R103, R104: DECODE's three failures in their order, and the payload up to the first END behind the START; nothing else changes, and
the bytes behind that END make no difference. -/
def Obligations.DecodeExtractsThePayload : Prop :=
  ∀ (s : State) (f : Bytes), s.params.inRange = true → codedAs (.decode f) 0x03#8 .host ∧
    (s.params.maxFrameLen < f.length → exec (.decode f) s = .next (answered .invalidArgument [] s)) ∧
    (f.length ≤ s.params.maxFrameLen → f.length < 3 ∨ f.head? ≠ some 0x05#8 →
      exec (.decode f) s = .next (answered .malformedFrame [] s)) ∧
    (f.length ≤ s.params.maxFrameLen → 3 ≤ f.length → ∀ t, f = 0x05#8 :: t → 0x04#8 ∉ t →
      exec (.decode f) s = .next (answered .missingTerminator [] s)) ∧
    (f.length ≤ s.params.maxFrameLen → 3 ≤ f.length → ∀ p t, f = 0x05#8 :: (p ++ 0x04#8 :: t) → 0x04#8 ∉ p →
      exec (.decode f) s = .next (answered .ok p s))

/-- R107: DECODE of ENCODE's frame gives the payload back exactly when the payload holds no END byte. -/
def Obligations.PayloadRoundTripsExactlyWithoutEnd : Prop :=
  ∀ (s : State) (p : Bytes), s.params.inRange = true → p.length ≤ s.params.maxFrameLen - 3 →
    ∃ f t, exec (.encode p) s = .next t ∧ t = answered .ok f s ∧
      (exec (.decode f) t = .next (answered .ok p t) ↔ 0x04#8 ∉ p)

/-- R108: a payload that holds END comes back cut at its first END. -/
def Obligations.EndInPayloadCutsIt : Prop :=
  ∀ (s : State) (k rest : Bytes), s.params.inRange = true → 0x04#8 ∉ k →
    (k ++ 0x04#8 :: rest).length ≤ s.params.maxFrameLen - 3 →
    ∃ f t, exec (.encode (k ++ 0x04#8 :: rest)) s = .next t ∧ t = answered .ok f s ∧
      exec (.decode f) t = .next (answered .ok k t)

/-! ### Reassembler -/

/-- R132: a buffer with no START is emptied, and nothing is delivered. -/
def Obligations.BufferWithoutStartIsEmptied : Prop :=
  ∀ s : State, 0x05#8 ∉ s.rxbuf → process s = { s with rxbuf := [] }

/-- R133: the bytes before the first START are removed, and cause nothing. -/
def Obligations.NoiseBeforeStartIsDiscarded : Prop :=
  ∀ (s : State) (z b : Bytes), 0x05#8 ∉ z →
    process { s with rxbuf := z ++ 0x05#8 :: b } = process { s with rxbuf := 0x05#8 :: b }

/-- R136: a candidate with the right checksum leaves the buffer, is delivered, and `Process()` goes on behind it. -/
def Obligations.ValidCandidateIsDelivered : Prop :=
  ∀ (s : State) (p : Bytes) (x : Byte) (r : Bytes), 0x04#8 ∉ p → x = xorfold (0x05#8 :: (p ++ [0x04#8])) →
    process { s with rxbuf := 0x05#8 :: (p ++ 0x04#8 :: x :: r) } =
      process (routed [0x05#8 :: (p ++ [0x04#8, x])] { s with rxbuf := r })

/-- R137: a candidate with a wrong checksum loses exactly its leading START, and `Process()` goes on; no flag, no event. -/
def Obligations.WrongChecksumDropsOneByte : Prop :=
  ∀ (s : State) (p : Bytes) (x : Byte) (r : Bytes), 0x04#8 ∉ p → x ≠ xorfold (0x05#8 :: (p ++ [0x04#8])) →
    process { s with rxbuf := 0x05#8 :: (p ++ 0x04#8 :: x :: r) } =
      process { s with rxbuf := p ++ 0x04#8 :: x :: r }

/-- R146 with R23 (b) and (c): a START without a complete candidate behind it waits, through any number of runs of `Process()`. -/
def Obligations.IncompleteCandidateWaits : Prop :=
  ∀ (s : State) (p : Bytes), 0x04#8 ∉ p.dropLast → s.rxbuf = 0x05#8 :: p → process s = s

/-- R130: RX_CHUNK takes its bytes in arrival order: each is appended, `Process()` runs, and where a finite capacity is exceeded the flag
is set, the leading byte goes and `Process()` runs again; an empty chunk changes nothing. -/
def Obligations.RxChunkTakesItsBytesInOrder : Prop :=
  (∀ d : Bytes, codedAs (.rxChunk d) 0x81#8 .transport) ∧
  (∀ s : State, exec (.rxChunk []) s = .next s) ∧
  (∀ (s : State) (b : Byte) (d : Bytes),
    (∃ t, exec (.rxChunk (b :: d)) s = .next t) ∧
    ∃ u, u = process { s with rxbuf := s.rxbuf ++ [b] } ∧
      (u.params.rxBufCap = .inf → exec (.rxChunk (b :: d)) s = exec (.rxChunk d) u) ∧
      (∀ n, u.params.rxBufCap = .finite n →
        exec (.rxChunk (b :: d)) s =
          exec (.rxChunk d) (if n < u.rxbuf.length then process { u with ovf := true, rxbuf := u.rxbuf.drop 1 } else u)))

/-- R139: one overflow drop per byte is enough: the capacity holds again after every byte, and OVF is set exactly when the buffer was
too long. -/
def Obligations.OneOverflowDropIsEnough : Prop :=
  ∀ (s : State) (b : Byte) (n : Nat), s.params.rxBufCap = .finite n → s.rxbuf.length ≤ n →
    ∃ t, exec (.rxChunk [b]) s = .next t ∧ t.rxbuf.length ≤ n ∧
      (t.ovf = true ↔ s.ovf = true ∨ (process { s with rxbuf := s.rxbuf ++ [b] }).rxbuf.length = n + 1)

/-- R140: however a stream is cut into chunks, the whole state afterwards is the same; and with `RX_BUF_CAP = INF`, from a buffer at rest,
it is the state that appending the whole chunk and running `Process()` once gives. -/
def Obligations.ChunkCutsMakeNoDifference : Prop :=
  (∀ (s : State) (chunks : List Bytes), rxChunks chunks s = exec (.rxChunk chunks.flatten) s) ∧
  (∀ (s : State) (d : Bytes), s.params.rxBufCap = .inf → atRest s.rxbuf = true →
    exec (.rxChunk d) s = .next (process { s with rxbuf := s.rxbuf ++ d }))

/-- R142, for a frame that the capacity admits (R139): noise without a START and then a frame deliver exactly that frame and leave an
empty buffer and the overflow flag as it was. -/
def Obligations.NoiseThenFrameIsDelivered : Prop :=
  ∀ (s : State) (z p : Bytes), s.rxbuf = [] → 0x05#8 ∉ z → 0x04#8 ∉ p →
    (s.params.rxBufCap = .inf ∨ ∃ n, s.params.rxBufCap = .finite n ∧ p.length + 3 ≤ n + 1) →
    exec (.rxChunk (z ++ frameOf p)) s = .next (routed [frameOf p] s)

/-- R144 (a), (b), (c): one flipped bit in the payload (short of making an END), in the checksum, or in the START makes the whole frame's
XOR that bit, and the first byte goes with nothing delivered. -/
def Obligations.FlippedBitIsDetected : Prop :=
  ∀ (s : State) (p : Bytes) (k b : Nat), 0x04#8 ∉ p → b < 8 →
    (k = 0 ∨ (1 ≤ k ∧ k ≤ p.length ∧ (frameOf p).getD k 0x00#8 ^^^ BitVec.twoPow 8 b ≠ 0x04#8) ∨ k = p.length + 2) →
    xorfold ((frameOf p).modify k (· ^^^ BitVec.twoPow 8 b)) = BitVec.twoPow 8 b ∧
    process { s with rxbuf := (frameOf p).modify k (· ^^^ BitVec.twoPow 8 b) } =
      process { s with rxbuf := ((frameOf p).modify k (· ^^^ BitVec.twoPow 8 b)).drop 1 }

/-- R143: noise that begins with a START and holds no END, right before a frame, makes one candidate with it, accepted exactly when the
noise folds to zero. -/
def Obligations.FalseAnchorIsAcceptedOnZeroParity : Prop :=
  ∀ (s : State) (y p : Bytes), 0x04#8 ∉ y → 0x04#8 ∉ p →
    process { s with rxbuf := 0x05#8 :: y ++ frameOf p } =
      if xorfold (0x05#8 :: y) = 0x00#8 then routed [0x05#8 :: y ++ frameOf p] { s with rxbuf := [] }
      else process { s with rxbuf := y ++ frameOf p }

/-- R145: of a valid candidate, the test detects exactly the error patterns that flip an odd number of bits in some bit position. -/
def Obligations.DetectionIsColumnParity : Prop :=
  ∀ c e : Bytes, c.length = e.length → frameValid c = true →
    (frameValid (List.zipWith (· ^^^ ·) c e) = false ↔ ∃ k < 8, (e.countP fun b => b.getLsbD k) % 2 = 1)

/-- R177: a chunk does to the buffer and to OVF what the reassembler does over the buffer alone (`received`); every frame that a pass
emits is whole, and they go in emission order: the first to a waiting exchange, every other one to the Observer, none dropped.
Everything else stays. -/
def Obligations.RxChunkRoutesItsFramesInOrder : Prop :=
  ∀ (s : State) (d : Bytes),
    (∀ c ∈ (received s.params s.rxbuf d).2.1, wholeFrame c = true) ∧
    exec (.rxChunk d) s =
      .next (routed (received s.params s.rxbuf d).2.1
        { s with rxbuf := (received s.params s.rxbuf d).1, ovf := s.ovf || (received s.params s.rxbuf d).2.2 })

/-- R109: a frame the reassembler emits has its first END right before its last byte, and DECODE of it, where `MAX_FRAME_LEN` admits it,
gives the bytes between START and END. -/
def Obligations.EmittedFramesDecode : Prop :=
  ∀ (s t : State) (d c : Bytes), exec (.rxChunk d) s = .next t →
    .unsol c ∈ t.history.drop s.history.length ∨ (s.cstate = .awaiting ∧ t.cstate = .fulfilled ∧ t.resp = some c) →
    3 ≤ c.length ∧ c.head? = some 0x05#8 ∧ firstIndex c 0x04#8 1 = some (c.length - 2) ∧ xorfold c = 0x00#8 ∧
    ∀ u : State, u.params.inRange = true → c.length ≤ u.params.maxFrameLen →
      exec (.decode c) u = .next (answered .ok (slice c 1 (c.length - 3)) u)

/-- R141: RX_FAULT changes nothing, whatever its `DATA`. -/
def Obligations.RxFaultChangesNothing : Prop :=
  ∀ (s : State) (d : Bytes), codedAs (.rxFault d) 0x82#8 .transport ∧ exec (.rxFault d) s = .next s

/-! ### Exchange marker -/

/-- R171, R172: EXCH_START's checks in their order; when all pass, the marker and TXBUSY are set and the operand goes out as one write. -/
def Obligations.ExchStartSetsTheMarkerAndWrites : Prop :=
  ∀ (s : State) (f : Bytes), codedAs (.exchStart f) 0x04#8 .host ∧
    exec (.exchStart f) s =
      .next (if s.params.maxFrameLen < f.length then answered .invalidArgument [] s
             else if s.cstate ≠ .idle ∨ s.txbusy = true then answered .alreadyPending [] s
             else if s.linkOpen = false then answered .transportNotReady [] s
             else answered .ok []
               { s with cstate := .awaiting, txbusy := true, history := s.history ++ [.txw f] })

/-- R174, R176: TX_DONE_OK clears TXBUSY and nothing else; with no write outstanding nothing changes. -/
def Obligations.TxDoneOkClearsTxbusy : Prop :=
  ∀ (s : State) (d : Bytes), codedAs (.txDoneOk d) 0x83#8 .transport ∧
    exec (.txDoneOk d) s = .next (if s.txbusy = true then { s with txbusy := false } else s)

/-- R175, R176: TX_DONE_FAIL clears TXBUSY, discards RESP and goes to WFAILED; with no write outstanding nothing changes. -/
def Obligations.TxDoneFailFailsTheExchange : Prop :=
  ∀ (s : State) (d : Bytes), codedAs (.txDoneFail d) 0x84#8 .transport ∧
    exec (.txDoneFail d) s =
      .next (if s.txbusy = true then { s with txbusy := false, resp := none, cstate := .wfailed } else s)

/-- R179: COLLECT, in every state: the shape check, `Busy`, and the four cases of CSTATE. (The counter of free values is the model's
own; RLEN is the frame's length where the field can say it.) -/
def Obligations.CollectReturnsTheOutcome : Prop :=
  (∀ d : Bytes, codedAs (.collect d) 0x05#8 .host) ∧
  (∀ (s : State) (d : Bytes), d ≠ [] → exec (.collect d) s = .next (answered .invalidArgument [] s)) ∧
  (∀ s : State, s.txbusy = true → exec (.collect []) s = .next (answered .busy [] s)) ∧
  (∀ s : State, s.txbusy = false →
    (s.cstate = .idle → exec (.collect []) s = .next (answered .noExchange [] s)) ∧
    (s.cstate = .awaiting → exec (.collect []) s = .next (answered .waiting [] s)) ∧
    (s.cstate = .wfailed → exec (.collect []) s = .next (answered .transportWriteError [] { s with cstate := .idle })) ∧
    (s.cstate = .fulfilled → ∀ r, s.resp = some r →
      ∃ n k, exec (.collect []) s =
          .next { s with resp := none, cstate := .idle, freeCount := k,
                         results := s.results ++ [{ rc := .ok, rlen := n, rdata := r }] } ∧
        (r.length ≤ 65535 → n = BitVec.ofNat 16 r.length ∧ k = s.freeCount)))

/-- R180: TIMEOUT, in every state: as COLLECT, but in AWAITING it clears the marker and returns `TimedOut`. -/
def Obligations.TimeoutEndsTheExchange : Prop :=
  (∀ d : Bytes, codedAs (.timeout d) 0x06#8 .host) ∧
  (∀ (s : State) (d : Bytes), d ≠ [] → exec (.timeout d) s = .next (answered .invalidArgument [] s)) ∧
  (∀ s : State, s.txbusy = true → exec (.timeout []) s = .next (answered .busy [] s)) ∧
  (∀ s : State, s.txbusy = false →
    (s.cstate = .idle → exec (.timeout []) s = .next (answered .noExchange [] s)) ∧
    (s.cstate = .awaiting → exec (.timeout []) s = .next (answered .timedOut [] { s with cstate := .idle })) ∧
    (s.cstate = .wfailed → exec (.timeout []) s = .next (answered .transportWriteError [] { s with cstate := .idle })) ∧
    (s.cstate = .fulfilled → ∀ r, s.resp = some r →
      ∃ n k, exec (.timeout []) s =
          .next { s with resp := none, cstate := .idle, freeCount := k,
                         results := s.results ++ [{ rc := .ok, rlen := n, rdata := r }] } ∧
        (r.length ≤ 65535 → n = BitVec.ofNat 16 r.length ∧ k = s.freeCount)))

/-- THE MODEL'S CHOICE (log 8): in FULFILLED with no RESP, which R36 (a) rules out, COLLECT and TIMEOUT stop by name. -/
def Obligations.FulfilledWithoutResponseStops : Prop :=
  ∀ s : State, s.txbusy = false → s.cstate = .fulfilled → s.resp = none →
    exec (.collect []) s = .fault .respAbsent ∧ exec (.timeout []) s = .fault .respAbsent

/-- The transition table of R170: CSTATE changes only by one of its rows, with the row's condition and output. -/
def Obligations.CstateChangesOnlyByItsTable : Prop :=
  ∀ (i : Instr) (s t : State), busyInExchange s = true → exec i s = .next t → t.cstate ≠ s.cstate →
    (s.cstate = .idle ∧ t.cstate = .awaiting ∧ s.txbusy = false ∧ s.linkOpen = true ∧ t.txbusy = true ∧
      ∃ f, i = .exchStart f ∧ t.history = s.history ++ [.txw f]) ∨
    (s.cstate = .awaiting ∧ t.cstate = .fulfilled ∧ (∃ d, i = .rxChunk d) ∧ ∃ c, t.resp = some c ∧ wholeFrame c = true) ∨
    ((s.cstate = .awaiting ∨ s.cstate = .fulfilled) ∧ t.cstate = .wfailed ∧ s.txbusy = true ∧ t.txbusy = false ∧
      ∃ d, i = .txDoneFail d) ∨
    (s.cstate = .awaiting ∧ t.cstate = .idle ∧ s.txbusy = false ∧ i = .timeout [] ∧
      t.results = s.results ++ [{ rc := .timedOut, rlen := 0#16, rdata := [] }]) ∨
    (s.cstate = .fulfilled ∧ t.cstate = .idle ∧ s.txbusy = false ∧ (i = .collect [] ∨ i = .timeout []) ∧
      ∃ n c, s.resp = some c ∧ t.results = s.results ++ [{ rc := .ok, rlen := n, rdata := c }]) ∨
    (s.cstate = .wfailed ∧ t.cstate = .idle ∧ s.txbusy = false ∧ (i = .collect [] ∨ i = .timeout []) ∧
      t.results = s.results ++ [{ rc := .transportWriteError, rlen := 0#16, rdata := [] }])

/-- R188, one step of it: while an exchange is in progress every EXCH_START of an admitted length gets `AlreadyPending`, and the exchange
stays in progress unless the operation is a COLLECT or TIMEOUT that returns `OK`, `TimedOut` or `TransportWriteError`. -/
def Obligations.SingleFlight : Prop :=
  ∀ s : State, s.cstate ≠ .idle →
    (∀ f : Bytes, f.length ≤ s.params.maxFrameLen → exec (.exchStart f) s = .next (answered .alreadyPending [] s)) ∧
    (∀ (i : Instr) (t : State), exec i s = .next t → t.cstate = .idle →
      (i = .collect [] ∨ i = .timeout []) ∧
      ∃ r, t.results = s.results ++ [r] ∧ (r.rc = .ok ∨ r.rc = .timedOut ∨ r.rc = .transportWriteError))

/-! ### Link level, status, result codes -/

/-- R182: LINK_STATE sets LINK_OPEN from exactly one byte 0x00 or 0x01; any other operand changes nothing, and nothing else changes. -/
def Obligations.LinkStateSetsTheLevel : Prop :=
  ∀ (s : State) (d : Bytes), codedAs (.linkState d) 0x85#8 .transport ∧
    exec (.linkState d) s =
      .next (if d = [0x00#8] then { s with linkOpen := false }
             else if d = [0x01#8] then { s with linkOpen := true } else s)

/-- R32: the fields of STATUS, and its reserved bits. -/
def Obligations.StatusWordLayout : Prop :=
  ∀ s : State,
    (statusWord s).toNat % 4 =
      (match s.cstate with
       | .idle => 0
       | .awaiting => 1
       | .fulfilled => 2
       | .wfailed => 3) ∧
    (statusWord s).getLsbD 2 = s.txbusy ∧ (statusWord s).getLsbD 3 = s.linkOpen ∧ (statusWord s).getLsbD 4 = s.ovf ∧
    (statusWord s).getLsbD 5 = false ∧ (statusWord s).getLsbD 6 = false ∧ (statusWord s).getLsbD 7 = false

/-- R183, R33: READ_STATUS returns STATUS and the buffer's length, saturated to 32 bits, most significant byte first; it changes
nothing. -/
def Obligations.ReadStatusReturnsStatusAndLength : Prop :=
  ∀ (s : State) (d : Bytes), codedAs (.readStatus d) 0x07#8 .host ∧
    exec (.readStatus d) s =
      .next (if d = [] then
          answered .ok
            [statusWord s,
             BitVec.ofNat 8 (min s.rxbuf.length 0xFFFFFFFF / 2 ^ 24),
             BitVec.ofNat 8 (min s.rxbuf.length 0xFFFFFFFF / 2 ^ 16),
             BitVec.ofNat 8 (min s.rxbuf.length 0xFFFFFFFF / 2 ^ 8),
             BitVec.ofNat 8 (min s.rxbuf.length 0xFFFFFFFF)] s
        else answered .invalidArgument [] s)

/-- R184: CLEAR_OVF clears OVF and nothing else. -/
def Obligations.ClearOvfClearsTheFlag : Prop :=
  ∀ (s : State) (d : Bytes), codedAs (.clearOvf d) 0x08#8 .host ∧
    exec (.clearOvf d) s =
      .next (if d = [] then answered .ok [] { s with ovf := false } else answered .invalidArgument [] s)

/-- R83: the operand-shape checks, whatever the state; what fails one changes no state. -/
def Obligations.OperandShapeChecksComeFirst : Prop :=
  (∀ (s : State) (d : Bytes), d ≠ [] →
    exec (.collect d) s = .next (answered .invalidArgument [] s) ∧
    exec (.timeout d) s = .next (answered .invalidArgument [] s) ∧
    exec (.readStatus d) s = .next (answered .invalidArgument [] s) ∧
    exec (.clearOvf d) s = .next (answered .invalidArgument [] s)) ∧
  (∀ (s : State) (d : Bytes), s.params.maxFrameLen - 3 < d.length →
    exec (.encode d) s = .next (answered .invalidArgument [] s)) ∧
  (∀ (s : State) (d : Bytes), s.params.maxFrameLen < d.length →
    exec (.decode d) s = .next (answered .invalidArgument [] s) ∧
    exec (.exchStart d) s = .next (answered .invalidArgument [] s)) ∧
  (∀ (s : State) (d : Bytes), d.length ≠ 1 ∨ (∃ v, d = [v] ∧ v ≠ 0x00#8 ∧ v ≠ 0x01#8) → exec (.linkState d) s = .next s) ∧
  (∀ (s : State) (d : Bytes),
    exec (.rxFault d) s = exec (.rxFault []) s ∧ exec (.txDoneOk d) s = exec (.txDoneOk []) s ∧
    exec (.txDoneFail d) s = exec (.txDoneFail []) s)

/-- R256: RESP_READY as a function of the state; while it is 1 a COLLECT that answers is final, and the level falls with it. -/
def Obligations.RespReadyMeansCollectIsFinal : Prop :=
  (∀ s : State, respReady s = true ↔ (s.cstate = .fulfilled ∨ s.cstate = .wfailed) ∧ s.txbusy = false) ∧
  (∀ s : State, respReady s = true → respMatches s = true →
    ∃ t r, exec (.collect []) s = .next t ∧ t.results = s.results ++ [r] ∧ r.rc ≠ .busy ∧ r.rc ≠ .waiting ∧
      respReady t = false)

/-- The numbers of the result codes in R250's table. -/
def Obligations.ResultCodeNumbers : Prop :=
  RC.ok.code = 0x00#8 ∧ RC.invalidArgument.code = 0x01#8 ∧ RC.transportNotReady.code = 0x02#8 ∧
  RC.alreadyPending.code = 0x03#8 ∧ RC.malformedFrame.code = 0x04#8 ∧ RC.missingTerminator.code = 0x05#8 ∧
  RC.timedOut.code = 0x06#8 ∧ RC.transportWriteError.code = 0x07#8 ∧ RC.busy.code = 0x08#8 ∧
  RC.waiting.code = 0x09#8 ∧ RC.noExchange.code = 0x0A#8 ∧ RC.illegalCommand.code = 0x0B#8

/-- Every Host operation returns exactly one result, and no Transport event returns one (R76, R77); a result other than `OK` carries no
data (R250). -/
def Obligations.EveryHostOperationReturnsOneResult : Prop :=
  ∀ (i : Instr) (s t : State), exec i s = .next t →
    (i.port = .transport → t.results = s.results) ∧
    (i.port = .host → ∃ r, t.results = s.results ++ [r] ∧ (r.rc ≠ .ok → r.rdata = [] ∧ r.rlen = 0#16))

/-- The last column of R250's table: what a result other than `OK` changes. -/
def Obligations.ErrorsChangeOnlyWhatTheTableSays : Prop :=
  ∀ (i : Instr) (s t : State) (r : Result), i.port = .host → exec i s = .next t → t.results = s.results ++ [r] →
    (r.rc = .timedOut ∨ r.rc = .transportWriteError → t = { s with results := s.results ++ [r], cstate := .idle }) ∧
    (r.rc ≠ .ok → r.rc ≠ .timedOut → r.rc ≠ .transportWriteError → t = { s with results := s.results ++ [r] })

/-! ### The whole machine -/

/-- R31 and R22: which operations change TXBUSY, LINK_OPEN, OVF and RXBUF, and how; none changes the parameters (R35) or what is still
offered. -/
def Obligations.FlagsChangeOnlyByTheirOperations : Prop :=
  ∀ (i : Instr) (s t : State), exec i s = .next t →
    (t.txbusy ≠ s.txbusy →
      (t.txbusy = true ∧ ∃ f, i = .exchStart f) ∨ (t.txbusy = false ∧ ∃ d, i = .txDoneOk d ∨ i = .txDoneFail d)) ∧
    (t.linkOpen ≠ s.linkOpen →
      (t.linkOpen = true ∧ i = .linkState [0x01#8]) ∨ (t.linkOpen = false ∧ i = .linkState [0x00#8])) ∧
    (t.ovf ≠ s.ovf →
      (t.ovf = true ∧ s.params.rxBufCap ≠ .inf ∧ ∃ d, i = .rxChunk d) ∨ (t.ovf = false ∧ i = .clearOvf [])) ∧
    (t.rxbuf ≠ s.rxbuf → ∃ d, i = .rxChunk d) ∧
    t.params = s.params ∧ t.offers = s.offers

/-- R53, R181: no step takes back an event or a result; a `TXW` is never retracted. -/
def Obligations.OutputsAreNeverRetracted : Prop :=
  ∀ s t : State, step s = .next t → s.history <+: t.history ∧ s.results <+: t.results

/-- R23 and the rest of the invariant (R8, R26, R29, R36 (a), (c), (d)): every step keeps it, from every state that has it. -/
def Obligations.InvariantIsKeptByEveryStep : Prop :=
  ∀ s t : State, invariant s = true → step s = .next t → invariant t = true

/-- The machine's state after reset has the invariant. Its parameters are the reference values, the model's choice (logs 4, 5). -/
def Obligations.ResetStateHasTheInvariant : Prop := invariant State.reset = true

/-- R61: every step completes in one transition: from a state with the invariant, a whole transaction at either port, and a reset, is
answered with a next state. -/
def Obligations.EveryWholeTransactionCompletes : Prop :=
  ∀ s : State, invariant s = true →
    (∀ (p : Port) (code : Byte) (data : Bytes) (rest : List Offer), data.length ≤ 65535 →
      ∃ t, step { s with offers := offerAt p (code :: (be16 data.length ++ data)) :: rest } = .next t ∧ t.offers = rest) ∧
    (∀ rest : List Offer, ∃ t, step { s with offers := .reset :: rest } = .next t ∧ t.offers = rest)

/-- R9: no operation depends on the line's bit order. -/
def Obligations.LineBitOrderIsNeverRead : Prop :=
  ∀ (i : Instr) (s : State) (b : BitOrder), exec i (withBitOrder b s) = mapNext (withBitOrder b) (exec i s)

/-- R264 and R8: a step of one instance is a step of its own state, and every other instance stays as it is; no step changes the number
of instances or a parameter of any of them; a system has at least one instance, and after reset it has `NUM_INSTANCES` of them, each
with its parameters. That all of them have the same parameters after reset is the model's choice (log 12), and so are the sequences of
free values, one for each instance, which no step changes (log 7). -/
def Obligations.InstancesShareNothing : Prop :=
  (∀ (k : Nat) (sys sys' : System), System.step k sys = some (.next sys') →
    sys'.numInstances = sys.numInstances ∧
    (∃ s t, sys.instances[k]? = some s ∧ step s = .next t ∧ sys'.instances[k]? = some t) ∧
    (∀ j, j ≠ k → sys'.instances[j]? = sys.instances[j]?) ∧
    sys'.instances.map State.params = sys.instances.map State.params ∧
    sys'.instances.map State.freeSource = sys.instances.map State.freeSource) ∧
  (∀ sys : System, 1 ≤ sys.numInstances) ∧
  (∀ (p : SystemParams) (h : p.inRange = true),
    (System.reset p h).numInstances = p.numInstances ∧
    (∀ s ∈ (System.reset p h).instances, s.params.inRange = true) ∧
    ∀ k < p.numInstances,
      (System.reset p h).instances[k]? = some { State.reset with params := p.ofEach, freeSource := k })

/-- R36 (b) and R178: while the agents keep their duties, every step of the world keeps exactly one write unanswered while TXBUSY is 1
and none while it is 0, and no `UNSOL` frame is lost: the accepted ones and then the handed ones are exactly the `UNSOL` frames, in
order; the world after reset has both. That a reset of the CFE resets the Transport too is the model's choice, one that R284 (T2)
names (log 13); that acceptance is a step of its own is log 19. -/
def Obligations.WorldKeepsItsBooks : Prop :=
  World.reset.booksKept = true ∧
  ∀ (a : Action) (w w' : World), w.booksKept = true → w.dutyMet a = true → w.act a = .next w' → w'.booksKept = true

/-- R12, R178, R260: the Observer's step always completes, accepts the oldest frame handed to it, and never touches the CFE; as many
steps of its own as there are frames accept all of them; and no other agent's step accepts a frame for it or takes one back. That a
handed frame may wait for the Observer's step is the model's choice (log 19). -/
def Obligations.ObserverStepAcceptsOneFrame : Prop :=
  (∀ w : World, w.handed = [] → w.act .accept = .next w) ∧
  (∀ (w : World) (c : Bytes) (later : List Bytes), w.handed = c :: later →
    w.act .accept = .next { w with handed := later, observed := w.observed ++ [c] }) ∧
  (∀ w : World, World.acceptOne^[w.handed.length] w = { w with handed := [], observed := w.observed ++ w.handed }) ∧
  (∀ (a : Action) (w w' : World), a.agent ≠ .observer → w.act a = .next w' → w'.observed = w.observed ∧ w.handed <+: w'.handed)

/-! ### The Host -/

/-- ASCII CODES ARE PRESUMED (log 14). The worked calls of R215 to R219, with the station and the hex flag left at their defaults as
there, and the bytes that 95_test_vectors.md gives for their texts (EX-1, EX-3, HB-3, HB-5, HB-6). -/
def Obligations.BuilderExamples : Prop :=
  buildRead [[0x25#8, 0x4D#8, 0x57#8, 0x31#8, 0x30#8, 0x30#8]] =
    .ok [0x30#8, 0x30#8, 0x52#8, 0x53#8, 0x53#8, 0x30#8, 0x31#8, 0x30#8, 0x36#8, 0x25#8, 0x4D#8, 0x57#8, 0x31#8,
       0x30#8, 0x30#8] ∧
  buildWrite [[0x25#8, 0x4D#8, 0x57#8, 0x31#8, 0x30#8, 0x30#8]] [[0x30#8, 0x30#8, 0x46#8, 0x46#8]] =
    .ok [0x30#8, 0x30#8, 0x57#8, 0x53#8, 0x53#8, 0x30#8, 0x31#8, 0x30#8, 0x36#8, 0x25#8, 0x4D#8, 0x57#8, 0x31#8,
       0x30#8, 0x30#8, 0x30#8, 0x34#8, 0x30#8, 0x30#8, 0x46#8, 0x46#8] ∧
  buildWriteNum [[0x25#8, 0x4D#8, 0x57#8, 0x31#8, 0x30#8, 0x30#8]] [255] =
    .ok [0x30#8, 0x30#8, 0x57#8, 0x53#8, 0x53#8, 0x30#8, 0x31#8, 0x30#8, 0x36#8, 0x25#8, 0x4D#8, 0x57#8, 0x31#8,
       0x30#8, 0x30#8, 0x30#8, 0x34#8, 0x30#8, 0x30#8, 0x46#8, 0x46#8] ∧
  buildReadBlock [0x25#8, 0x4D#8, 0x57#8, 0x31#8, 0x30#8, 0x30#8] 10 =
    .ok [0x30#8, 0x30#8, 0x52#8, 0x53#8, 0x42#8, 0x30#8, 0x36#8, 0x25#8, 0x4D#8, 0x57#8, 0x31#8, 0x30#8, 0x30#8,
       0x31#8, 0x30#8] ∧
  buildWriteBlock [0x25#8, 0x4D#8, 0x57#8, 0x31#8, 0x30#8, 0x30#8] [1, 2] =
    .ok [0x30#8, 0x30#8, 0x57#8, 0x53#8, 0x42#8, 0x30#8, 0x36#8, 0x25#8, 0x4D#8, 0x57#8, 0x31#8, 0x30#8, 0x30#8,
       0x30#8, 0x32#8, 0x30#8, 0x30#8, 0x30#8, 0x38#8, 0x30#8, 0x30#8, 0x30#8, 0x31#8, 0x30#8, 0x30#8, 0x30#8,
       0x32#8]

/-- R213, R214: a fixed-width field fails for a negative number and for one that does not fit; else it has exactly its width in digits
`0-9` or `0-9A-F`, most significant first, and says the number. -/
def Obligations.FixedWidthFields : Prop :=
  (∀ (n : Int) (w : Nat),
    (n < 0 ∨ (10 ^ w : Nat) ≤ n → dec n w = .error .invalidArgument) ∧
    (0 ≤ n → n < (10 ^ w : Nat) →
      ∃ t, dec n w = .ok t ∧ t.length = w ∧ (∀ b ∈ t, 0x30 ≤ b.toNat ∧ b.toNat ≤ 0x39) ∧ (digitsValue 10 t : Int) = n)) ∧
  (∀ v : Int,
    (v < 0 ∨ 0xFFFF < v → hex4 v = .error .invalidArgument) ∧
    (0 ≤ v → v ≤ 0xFFFF →
      ∃ t, hex4 v = .ok t ∧ t.length = 4 ∧
        (∀ b ∈ t, (0x30 ≤ b.toNat ∧ b.toNat ≤ 0x39) ∨ (0x41 ≤ b.toNat ∧ b.toNat ≤ 0x46)) ∧ (digitsValue 16 t : Int) = v))

/-- R287: the builders put no END byte into a payload whose addresses, values and station hold none, so that its frame comes back whole
(R107). -/
def Obligations.BuildersAddNoEndByte : Prop :=
  ∀ (addrs vals : List Bytes) (nums : List Int) (hex : Bool) (start st p : Bytes) (count : Int),
    (∀ a ∈ addrs, 0x04#8 ∉ a) → (∀ v ∈ vals, 0x04#8 ∉ v) → 0x04#8 ∉ start → 0x04#8 ∉ st →
    (buildRead addrs st = .ok p ∨ buildWrite addrs vals st = .ok p ∨ buildWriteNum addrs nums hex st = .ok p ∨
      buildReadBlock start count st = .ok p ∨ buildWriteBlock start nums st = .ok p) →
    0x04#8 ∉ p

/-- R212, R211: a station is trimmed, at least 2 characters, padded on the left with `'0'`, never truncated; an empty one is an
`InvalidArgument`. -/
def Obligations.StationIsPaddedNeverTruncated : Prop :=
  ∀ s : Bytes,
    (trim s = [] → station s = .error .invalidArgument) ∧
    (∀ c, trim s = [c] → station s = .ok [0x30#8, c]) ∧
    (2 ≤ (trim s).length → station s = .ok (trim s))

/-- R185: where the caller waits, it goes on to COLLECT when RESP_READY is 1, else to TIMEOUT when T has expired, else it waits on; and,
while its exchange is in progress and its write has returned, each of the two, whatever came in between: COLLECT of an exchange that is
still AWAITING goes back to waiting; else it returns `OK` with the frame of RESP, `TimedOut` (TIMEOUT only) or `TransportWriteError`,
and the exchange is over. That the test and the transaction are two steps is the model's choice (log 18). -/
def Obligations.ExchangeWaitReturnsItsOutcome : Prop :=
  ∀ (s : State) (expired : Bool),
    exchangeStep expired .waiting s =
      .next (if respReady s = true then .collecting else if expired = true then .timingOut else .waiting, s) ∧
    (s.txbusy = false →
      (s.cstate = .awaiting →
        exchangeStep expired .collecting s = .next (.waiting, answered .waiting [] s) ∧
        exchangeStep expired .timingOut s =
          .next (.finished { rc := .timedOut, rlen := 0#16, rdata := [] }, answered .timedOut [] { s with cstate := .idle })) ∧
      (s.cstate = .wfailed → ∀ ph, ph = .collecting ∨ ph = .timingOut →
        exchangeStep expired ph s =
          .next (.finished { rc := .transportWriteError, rlen := 0#16, rdata := [] },
            answered .transportWriteError [] { s with cstate := .idle })) ∧
      (s.cstate = .fulfilled → ∀ c, s.resp = some c → ∀ ph, ph = .collecting ∨ ph = .timingOut →
        ∃ n k, exchangeStep expired ph s =
          .next (.finished { rc := .ok, rlen := n, rdata := c },
            { s with resp := none, cstate := .idle, freeCount := k,
                     results := s.results ++ [{ rc := .ok, rlen := n, rdata := c }] }) ∧
          (c.length ≤ 65535 → n = BitVec.ofNat 16 c.length ∧ k = s.freeCount)))
end

