-- ==== Sys2Proof/Laws/Decode.lean ====
section
/-! SUPPORT. The 16-bit length field, and what the decoder reads from a whole transaction. -/

namespace Sys2Proof

@[simp] theorem length_be16 (n : Nat) : (be16 n).length = 2 := rfl

theorem be16Value_le (hi lo : Byte) : be16Value hi lo ≤ 65535 := by
  have := hi.isLt
  have := lo.isLt
  simp only [be16Value]
  omega

/-- A length that fits the field is read back (20_memory.md R54). -/
theorem be16Value_be16 (n : Nat) (h : n ≤ 65535) :
    be16Value (BitVec.ofNat 8 (n / 256)) (BitVec.ofNat 8 n) = n := by
  simp only [be16Value, BitVec.toNat_ofNat]
  omega

/-- The bytes of a length field are those of the number they say. -/
theorem be16_be16Value (hi lo : Byte) : be16 (be16Value hi lo) = [hi, lo] := by
  have := hi.isLt
  have := lo.isLt
  simp only [be16, be16Value, List.cons.injEq, and_true]
  constructor <;> apply BitVec.eq_of_toNat_eq <;> simp only [BitVec.toNat_ofNat] <;> omega

/-- A whole transaction: what its port's map says of its code (30_encoding.md R79, R82). -/
theorem decode_whole (p : Port) (opc : Byte) (data : Bytes) (h : data.length ≤ 65535) :
    decode p (opc :: (be16 data.length ++ data)) =
      match operation p opc data with
      | some i => .instr i
      | none => .reserved := by
  simp only [be16, List.cons_append, List.nil_append, decode, be16Value_be16 _ h, lt_irrefl, if_false]
  all_goals rfl

end Sys2Proof
end

