-- ==== Sys2Proof/Laws/Bytes.lean ====
section
/-! SUPPORT. Byte sequences and frames: what `firstIndex`, `slice`, `xorfold`, `frameOf` and `frameValid` do. -/

namespace Sys2Proof.Machine

/-! ### xorfold (40_codec.md R100) -/

@[simp] theorem xorfold_nil : xorfold [] = 0#8 := rfl

@[simp] theorem xorfold_cons (b : Byte) (s : Bytes) : xorfold (b :: s) = b ^^^ xorfold s := rfl

@[simp] theorem xorfold_append (s t : Bytes) : xorfold (s ++ t) = xorfold s ^^^ xorfold t := by
  induction s with
  | nil => simp
  | cons b s ih => simp [ih, BitVec.xor_assoc]

/-! ### firstIndex (00_scope.md R14) -/

/-- No index is found exactly when the byte does not stand at or behind the start. -/
theorem firstIndex_eq_none (s : Bytes) (v : Byte) (start : Nat) :
    firstIndex s v start = none ↔ v ∉ s.drop start := by
  simp only [firstIndex, Option.map_eq_none_iff, List.findIdx?_eq_none_iff, beq_eq_false_iff_ne]
  exact ⟨fun h hv => h v hv rfl, fun h x hx hxv => h (hxv ▸ hx)⟩

/-- What stands before the first occurrence, and where it is found. -/
theorem firstIndex_append_cons (p t : Bytes) (v : Byte) (h : v ∉ p) :
    firstIndex (p ++ v :: t) v 0 = some p.length := by
  have hp : p.findIdx? (· == v) = none := by
    simp only [List.findIdx?_eq_none_iff, beq_eq_false_iff_ne]
    exact fun x hx hxv => h (hxv ▸ hx)
  simp [firstIndex, List.findIdx?_append, List.findIdx?_cons, hp]

/-- The search from index 1 looks at what follows the first byte. -/
theorem firstIndex_cons_one (b v : Byte) (s : Bytes) :
    firstIndex (b :: s) v 1 = (firstIndex s v 0).map (· + 1) := by
  simp [firstIndex]

/-- A found index splits the sequence at the first occurrence. -/
theorem firstIndex_eq_some {s : Bytes} {v : Byte} {k : Nat} (h : firstIndex s v 0 = some k) :
    ∃ p t, s = p ++ v :: t ∧ v ∉ p ∧ p.length = k := by
  have hv : v ∈ s := by
    by_contra hn
    rw [(firstIndex_eq_none s v 0).2 (by simpa using hn)] at h
    cases h
  obtain ⟨p, t, rfl, hp⟩ := List.eq_append_cons_of_mem hv
  rw [firstIndex_append_cons p t v hp] at h
  exact ⟨p, t, rfl, hp, Option.some.inj h⟩

/-! ### slices (00_scope.md R14) -/

theorem slice_zero_append (p t : Bytes) (k : Nat) (h : p.length = k + 1) : slice (p ++ t) 0 k = p := by
  simp [slice, ← h]

/-! ### the frame (30_encoding.md R70, R72) -/

theorem frameOf_eq (p : Bytes) :
    frameOf p = startByte :: (p ++ endByte :: [xorfold (frameBody p)]) := by
  simp [frameOf, frameBody]

@[simp] theorem length_frameOf (p : Bytes) : (frameOf p).length = p.length + 3 := by
  simp [frameOf, frameBody]

/-- A sequence whose last byte is the fold of the others folds to zero, and conversely (R72). -/
theorem xorfold_append_singleton_eq_zero (s : Bytes) (b : Byte) : xorfold (s ++ [b]) = 0#8 ↔ b = xorfold s := by
  simp only [xorfold_append, xorfold_cons, xorfold_nil, BitVec.xor_zero]
  constructor
  · intro h
    have := congrArg (xorfold s ^^^ ·) h
    simpa [← BitVec.xor_assoc] using this
  · rintro rfl
    simp

/-- `FrameValid` in its equivalent form: long enough, and an XOR of zero (40_codec.md R106). -/
theorem frameValid_iff (c : Bytes) : frameValid c = true ↔ 3 ≤ c.length ∧ xorfold c = 0#8 := by
  rcases List.eq_nil_or_concat c with rfl | ⟨s, b, rfl⟩
  · simp [frameValid]
  · simp only [List.concat_eq_append, frameValid, List.dropLast_concat, List.getLast?_append, List.getLast?_singleton,
      Option.some_or, Bool.and_eq_true, decide_eq_true_eq, beq_iff_eq, Option.some.injEq,
      xorfold_append_singleton_eq_zero]

end Sys2Proof.Machine
end

