-- ==== Sys2Proof/Laws/State.lean ====
section
/-! SUPPORT. One lemma per field per update of the state, true by rfl, so that no later proof unfolds a record update. -/

namespace Sys2Proof.Machine

/-! ### setRxbuf -/

@[simp] theorem setRxbuf_rxbuf (b : Bytes) (s : State) : (s.setRxbuf b).rxbuf = b := rfl
@[simp] theorem setRxbuf_cstate (b : Bytes) (s : State) : (s.setRxbuf b).cstate = s.cstate := rfl
@[simp] theorem setRxbuf_resp (b : Bytes) (s : State) : (s.setRxbuf b).resp = s.resp := rfl
@[simp] theorem setRxbuf_txbusy (b : Bytes) (s : State) : (s.setRxbuf b).txbusy = s.txbusy := rfl
@[simp] theorem setRxbuf_linkOpen (b : Bytes) (s : State) : (s.setRxbuf b).linkOpen = s.linkOpen := rfl
@[simp] theorem setRxbuf_ovf (b : Bytes) (s : State) : (s.setRxbuf b).ovf = s.ovf := rfl
@[simp] theorem setRxbuf_params (b : Bytes) (s : State) : (s.setRxbuf b).params = s.params := rfl
@[simp] theorem setRxbuf_offers (b : Bytes) (s : State) : (s.setRxbuf b).offers = s.offers := rfl
@[simp] theorem setRxbuf_results (b : Bytes) (s : State) : (s.setRxbuf b).results = s.results := rfl
@[simp] theorem setRxbuf_history (b : Bytes) (s : State) : (s.setRxbuf b).history = s.history := rfl
@[simp] theorem setRxbuf_freeCount (b : Bytes) (s : State) : (s.setRxbuf b).freeCount = s.freeCount := rfl
@[simp] theorem setRxbuf_freeSource (b : Bytes) (s : State) : (s.setRxbuf b).freeSource = s.freeSource := rfl

/-! ### setCstate -/

@[simp] theorem setCstate_rxbuf (c : CState) (s : State) : (s.setCstate c).rxbuf = s.rxbuf := rfl
@[simp] theorem setCstate_cstate (c : CState) (s : State) : (s.setCstate c).cstate = c := rfl
@[simp] theorem setCstate_resp (c : CState) (s : State) : (s.setCstate c).resp = s.resp := rfl
@[simp] theorem setCstate_txbusy (c : CState) (s : State) : (s.setCstate c).txbusy = s.txbusy := rfl
@[simp] theorem setCstate_linkOpen (c : CState) (s : State) : (s.setCstate c).linkOpen = s.linkOpen := rfl
@[simp] theorem setCstate_ovf (c : CState) (s : State) : (s.setCstate c).ovf = s.ovf := rfl
@[simp] theorem setCstate_params (c : CState) (s : State) : (s.setCstate c).params = s.params := rfl
@[simp] theorem setCstate_offers (c : CState) (s : State) : (s.setCstate c).offers = s.offers := rfl
@[simp] theorem setCstate_results (c : CState) (s : State) : (s.setCstate c).results = s.results := rfl
@[simp] theorem setCstate_history (c : CState) (s : State) : (s.setCstate c).history = s.history := rfl
@[simp] theorem setCstate_freeCount (c : CState) (s : State) : (s.setCstate c).freeCount = s.freeCount := rfl
@[simp] theorem setCstate_freeSource (c : CState) (s : State) : (s.setCstate c).freeSource = s.freeSource := rfl

/-! ### setResp -/

@[simp] theorem setResp_rxbuf (r : Option Bytes) (s : State) : (s.setResp r).rxbuf = s.rxbuf := rfl
@[simp] theorem setResp_cstate (r : Option Bytes) (s : State) : (s.setResp r).cstate = s.cstate := rfl
@[simp] theorem setResp_resp (r : Option Bytes) (s : State) : (s.setResp r).resp = r := rfl
@[simp] theorem setResp_txbusy (r : Option Bytes) (s : State) : (s.setResp r).txbusy = s.txbusy := rfl
@[simp] theorem setResp_linkOpen (r : Option Bytes) (s : State) : (s.setResp r).linkOpen = s.linkOpen := rfl
@[simp] theorem setResp_ovf (r : Option Bytes) (s : State) : (s.setResp r).ovf = s.ovf := rfl
@[simp] theorem setResp_params (r : Option Bytes) (s : State) : (s.setResp r).params = s.params := rfl
@[simp] theorem setResp_offers (r : Option Bytes) (s : State) : (s.setResp r).offers = s.offers := rfl
@[simp] theorem setResp_results (r : Option Bytes) (s : State) : (s.setResp r).results = s.results := rfl
@[simp] theorem setResp_history (r : Option Bytes) (s : State) : (s.setResp r).history = s.history := rfl
@[simp] theorem setResp_freeCount (r : Option Bytes) (s : State) : (s.setResp r).freeCount = s.freeCount := rfl
@[simp] theorem setResp_freeSource (r : Option Bytes) (s : State) : (s.setResp r).freeSource = s.freeSource := rfl

/-! ### setTxbusy -/

@[simp] theorem setTxbusy_rxbuf (b : Bool) (s : State) : (s.setTxbusy b).rxbuf = s.rxbuf := rfl
@[simp] theorem setTxbusy_cstate (b : Bool) (s : State) : (s.setTxbusy b).cstate = s.cstate := rfl
@[simp] theorem setTxbusy_resp (b : Bool) (s : State) : (s.setTxbusy b).resp = s.resp := rfl
@[simp] theorem setTxbusy_txbusy (b : Bool) (s : State) : (s.setTxbusy b).txbusy = b := rfl
@[simp] theorem setTxbusy_linkOpen (b : Bool) (s : State) : (s.setTxbusy b).linkOpen = s.linkOpen := rfl
@[simp] theorem setTxbusy_ovf (b : Bool) (s : State) : (s.setTxbusy b).ovf = s.ovf := rfl
@[simp] theorem setTxbusy_params (b : Bool) (s : State) : (s.setTxbusy b).params = s.params := rfl
@[simp] theorem setTxbusy_offers (b : Bool) (s : State) : (s.setTxbusy b).offers = s.offers := rfl
@[simp] theorem setTxbusy_results (b : Bool) (s : State) : (s.setTxbusy b).results = s.results := rfl
@[simp] theorem setTxbusy_history (b : Bool) (s : State) : (s.setTxbusy b).history = s.history := rfl
@[simp] theorem setTxbusy_freeCount (b : Bool) (s : State) : (s.setTxbusy b).freeCount = s.freeCount := rfl
@[simp] theorem setTxbusy_freeSource (b : Bool) (s : State) : (s.setTxbusy b).freeSource = s.freeSource := rfl

/-! ### setLinkOpen -/

@[simp] theorem setLinkOpen_rxbuf (b : Bool) (s : State) : (s.setLinkOpen b).rxbuf = s.rxbuf := rfl
@[simp] theorem setLinkOpen_cstate (b : Bool) (s : State) : (s.setLinkOpen b).cstate = s.cstate := rfl
@[simp] theorem setLinkOpen_resp (b : Bool) (s : State) : (s.setLinkOpen b).resp = s.resp := rfl
@[simp] theorem setLinkOpen_txbusy (b : Bool) (s : State) : (s.setLinkOpen b).txbusy = s.txbusy := rfl
@[simp] theorem setLinkOpen_linkOpen (b : Bool) (s : State) : (s.setLinkOpen b).linkOpen = b := rfl
@[simp] theorem setLinkOpen_ovf (b : Bool) (s : State) : (s.setLinkOpen b).ovf = s.ovf := rfl
@[simp] theorem setLinkOpen_params (b : Bool) (s : State) : (s.setLinkOpen b).params = s.params := rfl
@[simp] theorem setLinkOpen_offers (b : Bool) (s : State) : (s.setLinkOpen b).offers = s.offers := rfl
@[simp] theorem setLinkOpen_results (b : Bool) (s : State) : (s.setLinkOpen b).results = s.results := rfl
@[simp] theorem setLinkOpen_history (b : Bool) (s : State) : (s.setLinkOpen b).history = s.history := rfl
@[simp] theorem setLinkOpen_freeCount (b : Bool) (s : State) : (s.setLinkOpen b).freeCount = s.freeCount := rfl
@[simp] theorem setLinkOpen_freeSource (b : Bool) (s : State) : (s.setLinkOpen b).freeSource = s.freeSource := rfl

/-! ### setOvf -/

@[simp] theorem setOvf_rxbuf (b : Bool) (s : State) : (s.setOvf b).rxbuf = s.rxbuf := rfl
@[simp] theorem setOvf_cstate (b : Bool) (s : State) : (s.setOvf b).cstate = s.cstate := rfl
@[simp] theorem setOvf_resp (b : Bool) (s : State) : (s.setOvf b).resp = s.resp := rfl
@[simp] theorem setOvf_txbusy (b : Bool) (s : State) : (s.setOvf b).txbusy = s.txbusy := rfl
@[simp] theorem setOvf_linkOpen (b : Bool) (s : State) : (s.setOvf b).linkOpen = s.linkOpen := rfl
@[simp] theorem setOvf_ovf (b : Bool) (s : State) : (s.setOvf b).ovf = b := rfl
@[simp] theorem setOvf_params (b : Bool) (s : State) : (s.setOvf b).params = s.params := rfl
@[simp] theorem setOvf_offers (b : Bool) (s : State) : (s.setOvf b).offers = s.offers := rfl
@[simp] theorem setOvf_results (b : Bool) (s : State) : (s.setOvf b).results = s.results := rfl
@[simp] theorem setOvf_history (b : Bool) (s : State) : (s.setOvf b).history = s.history := rfl
@[simp] theorem setOvf_freeCount (b : Bool) (s : State) : (s.setOvf b).freeCount = s.freeCount := rfl
@[simp] theorem setOvf_freeSource (b : Bool) (s : State) : (s.setOvf b).freeSource = s.freeSource := rfl

/-! ### setOffers -/

@[simp] theorem setOffers_rxbuf (o : List Offer) (s : State) : (s.setOffers o).rxbuf = s.rxbuf := rfl
@[simp] theorem setOffers_cstate (o : List Offer) (s : State) : (s.setOffers o).cstate = s.cstate := rfl
@[simp] theorem setOffers_resp (o : List Offer) (s : State) : (s.setOffers o).resp = s.resp := rfl
@[simp] theorem setOffers_txbusy (o : List Offer) (s : State) : (s.setOffers o).txbusy = s.txbusy := rfl
@[simp] theorem setOffers_linkOpen (o : List Offer) (s : State) : (s.setOffers o).linkOpen = s.linkOpen := rfl
@[simp] theorem setOffers_ovf (o : List Offer) (s : State) : (s.setOffers o).ovf = s.ovf := rfl
@[simp] theorem setOffers_params (o : List Offer) (s : State) : (s.setOffers o).params = s.params := rfl
@[simp] theorem setOffers_offers (o : List Offer) (s : State) : (s.setOffers o).offers = o := rfl
@[simp] theorem setOffers_results (o : List Offer) (s : State) : (s.setOffers o).results = s.results := rfl
@[simp] theorem setOffers_history (o : List Offer) (s : State) : (s.setOffers o).history = s.history := rfl
@[simp] theorem setOffers_freeCount (o : List Offer) (s : State) : (s.setOffers o).freeCount = s.freeCount := rfl
@[simp] theorem setOffers_freeSource (o : List Offer) (s : State) : (s.setOffers o).freeSource = s.freeSource := rfl

/-! ### emit -/

@[simp] theorem emit_rxbuf (e : Event) (s : State) : (s.emit e).rxbuf = s.rxbuf := rfl
@[simp] theorem emit_cstate (e : Event) (s : State) : (s.emit e).cstate = s.cstate := rfl
@[simp] theorem emit_resp (e : Event) (s : State) : (s.emit e).resp = s.resp := rfl
@[simp] theorem emit_txbusy (e : Event) (s : State) : (s.emit e).txbusy = s.txbusy := rfl
@[simp] theorem emit_linkOpen (e : Event) (s : State) : (s.emit e).linkOpen = s.linkOpen := rfl
@[simp] theorem emit_ovf (e : Event) (s : State) : (s.emit e).ovf = s.ovf := rfl
@[simp] theorem emit_params (e : Event) (s : State) : (s.emit e).params = s.params := rfl
@[simp] theorem emit_offers (e : Event) (s : State) : (s.emit e).offers = s.offers := rfl
@[simp] theorem emit_results (e : Event) (s : State) : (s.emit e).results = s.results := rfl
@[simp] theorem emit_history (e : Event) (s : State) : (s.emit e).history = s.history ++ [e] := rfl
@[simp] theorem emit_freeCount (e : Event) (s : State) : (s.emit e).freeCount = s.freeCount := rfl
@[simp] theorem emit_freeSource (e : Event) (s : State) : (s.emit e).freeSource = s.freeSource := rfl

/-! ### respond -/

@[simp] theorem respond_rxbuf (rc : RC) (data : Bytes) (s : State) : (s.respond rc data).rxbuf = s.rxbuf := rfl
@[simp] theorem respond_cstate (rc : RC) (data : Bytes) (s : State) : (s.respond rc data).cstate = s.cstate := rfl
@[simp] theorem respond_resp (rc : RC) (data : Bytes) (s : State) : (s.respond rc data).resp = s.resp := rfl
@[simp] theorem respond_txbusy (rc : RC) (data : Bytes) (s : State) : (s.respond rc data).txbusy = s.txbusy := rfl
@[simp] theorem respond_linkOpen (rc : RC) (data : Bytes) (s : State) : (s.respond rc data).linkOpen = s.linkOpen := rfl
@[simp] theorem respond_ovf (rc : RC) (data : Bytes) (s : State) : (s.respond rc data).ovf = s.ovf := rfl
@[simp] theorem respond_params (rc : RC) (data : Bytes) (s : State) : (s.respond rc data).params = s.params := rfl
@[simp] theorem respond_offers (rc : RC) (data : Bytes) (s : State) : (s.respond rc data).offers = s.offers := rfl
@[simp] theorem respond_results (rc : RC) (data : Bytes) (s : State) : (s.respond rc data).results =
      s.results ++ [{ rc := rc, rlen := resultLength data s.freeSource s.freeCount, rdata := data }] := rfl
@[simp] theorem respond_history (rc : RC) (data : Bytes) (s : State) : (s.respond rc data).history = s.history := rfl
@[simp] theorem respond_freeCount (rc : RC) (data : Bytes) (s : State) : (s.respond rc data).freeCount =
      if data.length ≤ maxField then s.freeCount else s.freeCount + 1 := rfl
@[simp] theorem respond_freeSource (rc : RC) (data : Bytes) (s : State) : (s.respond rc data).freeSource = s.freeSource := rfl

/-! ### raise -/

@[simp] theorem raise_rxbuf (rc : RC) (s : State) : (s.raise rc).rxbuf = s.rxbuf := rfl
@[simp] theorem raise_cstate (rc : RC) (s : State) : (s.raise rc).cstate = s.cstate := rfl
@[simp] theorem raise_resp (rc : RC) (s : State) : (s.raise rc).resp = s.resp := rfl
@[simp] theorem raise_txbusy (rc : RC) (s : State) : (s.raise rc).txbusy = s.txbusy := rfl
@[simp] theorem raise_linkOpen (rc : RC) (s : State) : (s.raise rc).linkOpen = s.linkOpen := rfl
@[simp] theorem raise_ovf (rc : RC) (s : State) : (s.raise rc).ovf = s.ovf := rfl
@[simp] theorem raise_params (rc : RC) (s : State) : (s.raise rc).params = s.params := rfl
@[simp] theorem raise_offers (rc : RC) (s : State) : (s.raise rc).offers = s.offers := rfl
@[simp] theorem raise_results (rc : RC) (s : State) : (s.raise rc).results =
      s.results ++ [{ rc := rc, rlen := 0#16, rdata := [] }] := rfl
@[simp] theorem raise_history (rc : RC) (s : State) : (s.raise rc).history = s.history := rfl
@[simp] theorem raise_freeCount (rc : RC) (s : State) : (s.raise rc).freeCount = s.freeCount := rfl
@[simp] theorem raise_freeSource (rc : RC) (s : State) : (s.raise rc).freeSource = s.freeSource := rfl

/-! ### resetElements -/

@[simp] theorem resetElements_rxbuf (s : State) : s.resetElements.rxbuf = [] := rfl
@[simp] theorem resetElements_cstate (s : State) : s.resetElements.cstate = .idle := rfl
@[simp] theorem resetElements_resp (s : State) : s.resetElements.resp = none := rfl
@[simp] theorem resetElements_txbusy (s : State) : s.resetElements.txbusy = false := rfl
@[simp] theorem resetElements_linkOpen (s : State) : s.resetElements.linkOpen = false := rfl
@[simp] theorem resetElements_ovf (s : State) : s.resetElements.ovf = false := rfl
@[simp] theorem resetElements_params (s : State) : s.resetElements.params = s.params := rfl
@[simp] theorem resetElements_offers (s : State) : s.resetElements.offers = s.offers := rfl
@[simp] theorem resetElements_results (s : State) : s.resetElements.results = s.results := rfl
@[simp] theorem resetElements_history (s : State) : s.resetElements.history = s.history := rfl
@[simp] theorem resetElements_freeCount (s : State) : s.resetElements.freeCount = s.freeCount := rfl
@[simp] theorem resetElements_freeSource (s : State) : s.resetElements.freeSource = s.freeSource := rfl

end Sys2Proof.Machine
end

