-- ==== Sys2Proof/Laws/Ops.lean ====
section
/-! SUPPORT. What the shared operations do: results, the delivery router, the shape check. -/

namespace Sys2Proof.Machine

/-! ### results (00_scope.md R15, 30_encoding.md R76) -/

/-- A result whose length RLEN can say draws no free value. -/
theorem respond_of_short (rc : RC) (data : Bytes) (s : State) (h : data.length ≤ 65535) :
    s.respond rc data =
      { s with results := s.results ++ [{ rc := rc, rlen := BitVec.ofNat 16 data.length, rdata := data }] } := by
  simp only [State.respond, resultLength, maxField, h, if_true]

/-- Every result: the code and the data as given, RLEN and the counter of free values as they may be. -/
theorem respond_cases (rc : RC) (data : Bytes) (s : State) :
    ∃ n k, s.respond rc data = { s with results := s.results ++ [{ rc := rc, rlen := n, rdata := data }], freeCount := k } ∧
      (data.length ≤ 65535 → n = BitVec.ofNat 16 data.length ∧ k = s.freeCount) :=
  ⟨_, _, rfl, fun h => by simp [resultLength, maxField, h]⟩

/-- `raise` appends one empty result and changes nothing else (R15). -/
theorem raise_eq (rc : RC) (s : State) :
    s.raise rc = { s with results := s.results ++ [{ rc := rc, rlen := 0#16, rdata := [] }] } :=
  respond_of_short rc [] s (by simp)

/-! ### the delivery router (42_correlator.md R177) -/

theorem deliver_of_awaiting {s : State} (c : Bytes) (h : s.cstate = .awaiting) :
    s.deliver c = { s with resp := some c, cstate := .fulfilled } := by
  simp only [State.deliver, h, State.setResp, State.setCstate]

theorem deliver_of_not_awaiting {s : State} (c : Bytes) (h : s.cstate ≠ .awaiting) :
    s.deliver c = { s with history := s.history ++ [.unsol c] } := by
  cases hc : s.cstate <;> first | exact absurd hc h | simp only [State.deliver, hc, State.emit]

/-- All a delivery can do. -/
theorem deliver_cases (c : Bytes) (s : State) :
    (s.cstate = .awaiting ∧ s.deliver c = { s with resp := some c, cstate := .fulfilled }) ∨
    (s.cstate ≠ .awaiting ∧ s.deliver c = { s with history := s.history ++ [.unsol c] }) := by
  by_cases h : s.cstate = .awaiting
  · exact .inl ⟨h, deliver_of_awaiting c h⟩
  · exact .inr ⟨h, deliver_of_not_awaiting c h⟩

@[simp] theorem deliver_rxbuf (c : Bytes) (s : State) : (s.deliver c).rxbuf = s.rxbuf := by
  rcases deliver_cases c s with ⟨-, h⟩ | ⟨-, h⟩ <;> rw [h]

@[simp] theorem deliver_txbusy (c : Bytes) (s : State) : (s.deliver c).txbusy = s.txbusy := by
  rcases deliver_cases c s with ⟨-, h⟩ | ⟨-, h⟩ <;> rw [h]

@[simp] theorem deliver_linkOpen (c : Bytes) (s : State) : (s.deliver c).linkOpen = s.linkOpen := by
  rcases deliver_cases c s with ⟨-, h⟩ | ⟨-, h⟩ <;> rw [h]

@[simp] theorem deliver_ovf (c : Bytes) (s : State) : (s.deliver c).ovf = s.ovf := by
  rcases deliver_cases c s with ⟨-, h⟩ | ⟨-, h⟩ <;> rw [h]

@[simp] theorem deliver_params (c : Bytes) (s : State) : (s.deliver c).params = s.params := by
  rcases deliver_cases c s with ⟨-, h⟩ | ⟨-, h⟩ <;> rw [h]

@[simp] theorem deliver_offers (c : Bytes) (s : State) : (s.deliver c).offers = s.offers := by
  rcases deliver_cases c s with ⟨-, h⟩ | ⟨-, h⟩ <;> rw [h]

@[simp] theorem deliver_results (c : Bytes) (s : State) : (s.deliver c).results = s.results := by
  rcases deliver_cases c s with ⟨-, h⟩ | ⟨-, h⟩ <;> rw [h]

@[simp] theorem deliver_freeCount (c : Bytes) (s : State) : (s.deliver c).freeCount = s.freeCount := by
  rcases deliver_cases c s with ⟨-, h⟩ | ⟨-, h⟩ <;> rw [h]

@[simp] theorem deliver_freeSource (c : Bytes) (s : State) : (s.deliver c).freeSource = s.freeSource := by
  rcases deliver_cases c s with ⟨-, h⟩ | ⟨-, h⟩ <;> rw [h]

/-! ### the shape check (30_encoding.md R83) -/

theorem withShape_of_ok {sh : Shape} {data : Bytes} {s : State} (k : StepOutcome) (h : shapeOk sh s.params data = true) :
    withShape sh data s k = k := by
  simp only [withShape, h, if_true]

theorem withShape_of_bad {sh : Shape} {data : Bytes} {s : State} (k : StepOutcome) (h : shapeOk sh s.params data = false) :
    withShape sh data s k = .next (s.raise .invalidArgument) := by
  simp only [withShape, h, Bool.false_eq_true, if_false]

/-- All a shape check can do. -/
theorem withShape_next {sh : Shape} {data : Bytes} {s t : State} {k : StepOutcome} (h : withShape sh data s k = .next t) :
    (shapeOk sh s.params data = true ∧ k = .next t) ∨
    (shapeOk sh s.params data = false ∧ t = s.raise .invalidArgument) := by
  cases hs : shapeOk sh s.params data
  · rw [withShape_of_bad k hs] at h
    exact .inr ⟨rfl, (Host.Outcome.next.inj h).symm⟩
  · rw [withShape_of_ok k hs] at h
    exact .inl ⟨rfl, h⟩

@[simp] theorem shapeOk_empty (p : Params) (data : Bytes) : shapeOk .empty p data = true ↔ data = [] := by
  simp [shapeOk]

@[simp] theorem shapeOk_payload (p : Params) (data : Bytes) :
    shapeOk .payload p data = true ↔ data.length ≤ p.maxFrameLen - 3 := by
  simp [shapeOk]

@[simp] theorem shapeOk_frame (p : Params) (data : Bytes) : shapeOk .frame p data = true ↔ data.length ≤ p.maxFrameLen := by
  simp [shapeOk]

end Sys2Proof.Machine
end

