-- ==== Sys2Proof/Laws/Reassembler.lean ====
section
/-! SUPPORT. What one pass of `Process()` decides, and `Process()` as its own passes (41_reassembler.md R131 to R138). -/

namespace Sys2Proof.Machine

/-! ### one pass -/

/-- Step 1: no START (R132). -/
theorem pass_of_no_start {buf : Bytes} (h : startByte ∉ buf) : pass buf = .stop [] := by
  simp only [pass, (firstIndex_eq_none buf startByte 0).2 (by simpa using h)]

/-- Step 2: the bytes before the first START make no difference (R133). -/
theorem pass_of_noise {z : Bytes} (b : Bytes) (h : startByte ∉ z) :
    pass (z ++ startByte :: b) = passFromStart (startByte :: b) := by
  simp only [pass, firstIndex_append_cons z b startByte h, List.drop_left]

theorem pass_start (b : Bytes) : pass (startByte :: b) = passFromStart (startByte :: b) :=
  pass_of_noise (z := []) b (by simp)

/-- Steps 3 to 5: no complete candidate (R134, R135). -/
theorem passFromStart_of_incomplete {p : Bytes} (h : endByte ∉ p.dropLast) :
    passFromStart (startByte :: p) = .stop (startByte :: p) := by
  simp only [passFromStart, firstIndex_cons_one]
  split
  · rfl
  · cases he : firstIndex p endByte 0 with
    | none => rfl
    | some k =>
      obtain ⟨q, t, rfl, -, rfl⟩ := firstIndex_eq_some he
      have ht : t = [] := by
        by_contra hne
        refine h ?_
        rw [List.dropLast_append_of_ne_nil (by simp)]
        cases t with
        | nil => exact absurd rfl hne
        | cons x r => simp
      subst ht
      simp

/-- Step 6: a complete candidate is emitted or dropped by its checksum (R136, R137). -/
theorem passFromStart_of_candidate {p : Bytes} (x : Byte) (r : Bytes) (h : endByte ∉ p) :
    passFromStart (startByte :: (p ++ endByte :: x :: r)) =
      if x = xorfold (frameBody p) then .emit (frameOf p) r else .drop (p ++ endByte :: x :: r) := by
  have hlen : ¬ (startByte :: (p ++ endByte :: x :: r)).length < 3 := by
    simp only [List.length_cons, List.length_append]; omega
  have hlast : ¬ (startByte :: (p ++ endByte :: x :: r)).length ≤ p.length + 1 + 1 := by
    simp only [List.length_cons, List.length_append]; omega
  have hsplit : startByte :: (p ++ endByte :: x :: r) = (frameBody p ++ [x]) ++ r := by simp [frameBody]
  have hbody : (frameBody p ++ [x]).length = p.length + 1 + 1 + 1 := by simp [frameBody]
  have hslice : slice (startByte :: (p ++ endByte :: x :: r)) 0 (p.length + 1 + 1) = frameBody p ++ [x] := by
    rw [hsplit]; exact slice_zero_append _ _ _ hbody
  have hdrop : (startByte :: (p ++ endByte :: x :: r)).drop (p.length + 1 + 2) = r := by
    rw [hsplit]; exact List.drop_left' hbody
  have hvalid : frameValid (frameBody p ++ [x]) = decide (x = xorfold (frameBody p)) := by
    rw [Bool.eq_iff_iff, frameValid_iff, xorfold_append_singleton_eq_zero, hbody, decide_eq_true_eq]
    exact ⟨fun hx => hx.2, fun hx => ⟨by omega, hx⟩⟩
  simp only [passFromStart, hlen, if_false, firstIndex_cons_one, firstIndex_append_cons p (x :: r) endByte h, Option.map_some,
    hlast, hslice, hvalid, hdrop, decide_eq_true_eq, List.drop_succ_cons, List.drop_zero]
  split
  · next hx => rw [hx, frameOf]
  · rfl

/-- A buffer, seen as a pass sees it. -/
inductive Seen (buf : Bytes) : Prop where
  | noStart (h : startByte ∉ buf)
  | incomplete (z p : Bytes) (hz : startByte ∉ z) (hp : endByte ∉ p.dropLast) (h : buf = z ++ startByte :: p)
  | candidate (z p : Bytes) (x : Byte) (r : Bytes) (hz : startByte ∉ z) (hp : endByte ∉ p)
      (h : buf = z ++ startByte :: (p ++ endByte :: x :: r))

/-- Every buffer is one of the three. -/
theorem seen (buf : Bytes) : Seen buf := by
  by_cases hs : startByte ∈ buf
  · obtain ⟨z, b, rfl, hz⟩ := List.eq_append_cons_of_mem hs
    by_cases he : endByte ∈ b.dropLast
    · obtain ⟨p, t, hb, hp⟩ := List.eq_append_cons_of_mem he
      have hne : b ≠ [] := by rintro rfl; simp at he
      have hb' : b = p ++ endByte :: (t ++ [b.getLast hne]) := by
        conv_lhs => rw [← List.dropLast_append_getLast hne, hb]
        simp
      generalize b.getLast hne = l at hb'
      subst hb'
      cases t with
      | nil => exact .candidate z p l [] hz hp (by simp)
      | cons x r => exact .candidate z p x (r ++ [l]) hz hp (by simp)
    · exact .incomplete z b hz he rfl
  · exact .noStart hs

/-! ### the loop -/

/-- What `Process()` goes on with is shorter (R138). -/
theorem pass_emit_length {buf f r : Bytes} (h : pass buf = .emit f r) : r.length + 3 ≤ buf.length := by
  rcases seen buf with hs | ⟨z, p, hz, hp, rfl⟩ | ⟨z, p, x, t, hz, hp, rfl⟩
  · rw [pass_of_no_start hs] at h; cases h
  · rw [pass_of_noise _ hz, passFromStart_of_incomplete hp] at h; cases h
  · rw [pass_of_noise _ hz, passFromStart_of_candidate x t hp] at h
    split at h <;> cases h
    simp only [List.length_append, List.length_cons]; omega

theorem pass_drop_length {buf r : Bytes} (h : pass buf = .drop r) : r.length + 1 ≤ buf.length := by
  rcases seen buf with hs | ⟨z, p, hz, hp, rfl⟩ | ⟨z, p, x, t, hz, hp, rfl⟩
  · rw [pass_of_no_start hs] at h; cases h
  · rw [pass_of_noise _ hz, passFromStart_of_incomplete hp] at h; cases h
  · rw [pass_of_noise _ hz, passFromStart_of_candidate x t hp] at h
    split at h <;> cases h
    simp only [List.length_append, List.length_cons]; omega

/-- More passes than `len(RXBUF)` never make a difference: the loop has stopped (R138). -/
theorem processLoop_enough (n m : Nat) (s : State) (hn : s.rxbuf.length < n) (hm : s.rxbuf.length < m) :
    processLoop n s = processLoop m s := by
  induction n generalizing m s with
  | zero => omega
  | succ n ih =>
    cases m with
    | zero => omega
    | succ m =>
      simp only [processLoop]
      cases hp : pass s.rxbuf with
      | stop b => rfl
      | emit f r =>
        have := pass_emit_length hp
        exact ih m _ (by simp; omega) (by simp; omega)
      | drop r =>
        have := pass_drop_length hp
        exact ih m _ (by simp; omega) (by simp; omega)

/-- `Process()` is one pass and then `Process()` again, as R131 writes it. -/
theorem process_eq (s : State) :
    process s =
      match pass s.rxbuf with
      | .stop buf => s.setRxbuf buf
      | .emit frame rest => process ((s.setRxbuf rest).deliver frame)
      | .drop rest => process (s.setRxbuf rest) := by
  conv_lhs => rw [process, processLoop]
  cases hp : pass s.rxbuf with
  | stop b => rfl
  | emit f r =>
    have := pass_emit_length hp
    exact processLoop_enough _ _ _ (by simp; omega) (by simp)
  | drop r =>
    have := pass_drop_length hp
    exact processLoop_enough _ _ _ (by simp; omega) (by simp)

/-- Induction over the passes of `Process()`: a property of every state whose buffer is shorter carries over. -/
theorem process_induction {P : State → Prop}
    (stop : ∀ s b, pass s.rxbuf = .stop b → P s)
    (emit : ∀ s f r, pass s.rxbuf = .emit f r → P ((s.setRxbuf r).deliver f) → P s)
    (drop : ∀ s r, pass s.rxbuf = .drop r → P (s.setRxbuf r) → P s) (s : State) : P s := by
  induction h : s.rxbuf.length using Nat.strong_induction_on generalizing s with
  | _ n ih =>
    subst h
    cases hp : pass s.rxbuf with
    | stop b => exact stop s b hp
    | emit f r =>
      have := pass_emit_length hp
      exact emit s f r hp (ih _ (by simp; omega) _ rfl)
    | drop r =>
      have := pass_drop_length hp
      exact drop s r hp (ih _ (by simp; omega) _ rfl)

/-- What `Process()` never changes. -/
theorem process_frame (s : State) :
    (process s).txbusy = s.txbusy ∧ (process s).linkOpen = s.linkOpen ∧ (process s).ovf = s.ovf ∧
      (process s).params = s.params ∧ (process s).offers = s.offers ∧ (process s).results = s.results ∧
      (process s).freeCount = s.freeCount ∧ (process s).freeSource = s.freeSource := by
  induction s using process_induction with
  | stop s b h => rw [process_eq, h]; simp
  | emit s f r h ih => rw [process_eq, h]; simpa using ih
  | drop s r h ih => rw [process_eq, h]; simpa using ih

/-- RX_FAULT changes nothing (R141). -/
theorem execRxFault_eq (data : Bytes) (s : State) : execRxFault data s = .next s := rfl

end Sys2Proof.Machine
end

