-- ==== Sys2Proof/Laws/Exec.lean ====
section
/-! SUPPORT. Once for each operation, everything it can do: "if it answers `next t`, then one of these holds". -/

namespace Sys2Proof.Machine

theorem execBcc_next {d : Bytes} {s t : State} (h : execBcc d s = .next t) : t = s.respond .ok [xorfold d] :=
  (Host.Outcome.next.inj h).symm

theorem execEncode_next {d : Bytes} {s t : State} (h : execEncode d s = .next t) :
    (d.length ≤ s.params.maxFrameLen - 3 ∧ t = s.respond .ok (frameOf d)) ∨
    (¬ d.length ≤ s.params.maxFrameLen - 3 ∧ t = s.raise .invalidArgument) := by
  rcases withShape_next h with ⟨hs, hk⟩ | ⟨hs, ht⟩
  · exact .inl ⟨(shapeOk_payload _ _).1 hs, (Host.Outcome.next.inj hk).symm⟩
  · exact .inr ⟨fun hd => (by rw [(shapeOk_payload _ _).2 hd] at hs; cases hs), ht⟩

theorem execDecode_next {d : Bytes} {s t : State} (h : execDecode d s = .next t) :
    (d.length ≤ s.params.maxFrameLen ∧ ∃ p, payloadOf d = .ok p ∧ t = s.respond .ok p) ∨
    (d.length ≤ s.params.maxFrameLen ∧ ∃ rc, payloadOf d = .error rc ∧ t = s.raise rc) ∨
    (¬ d.length ≤ s.params.maxFrameLen ∧ t = s.raise .invalidArgument) := by
  rcases withShape_next h with ⟨hs, hk⟩ | ⟨hs, ht⟩
  · have hd := (shapeOk_frame _ _).1 hs
    cases hp : payloadOf d with
    | ok p => rw [hp] at hk; exact .inl ⟨hd, p, rfl, (Host.Outcome.next.inj hk).symm⟩
    | error rc => rw [hp] at hk; exact .inr (.inl ⟨hd, rc, rfl, (Host.Outcome.next.inj hk).symm⟩)
  · exact .inr (.inr ⟨fun hd => (by rw [(shapeOk_frame _ _).2 hd] at hs; cases hs), ht⟩)

/-- The failures of DECODE are the two structural ones (40_codec.md R104). -/
theorem payloadOf_error {d : Bytes} {rc : RC} (h : payloadOf d = .error rc) :
    rc = .malformedFrame ∨ rc = .missingTerminator := by
  simp only [payloadOf] at h
  split at h
  · exact .inl (Except.error.inj h).symm
  · split at h
    · exact .inr (Except.error.inj h).symm
    · cases h

theorem execExchStart_next {f : Bytes} {s t : State} (h : execExchStart f s = .next t) :
    (¬ f.length ≤ s.params.maxFrameLen ∧ t = s.raise .invalidArgument) ∨
    (f.length ≤ s.params.maxFrameLen ∧ (s.cstate ≠ .idle ∨ s.txbusy = true) ∧ t = s.raise .alreadyPending) ∨
    (f.length ≤ s.params.maxFrameLen ∧ s.cstate = .idle ∧ s.txbusy = false ∧ s.linkOpen = false ∧
      t = s.raise .transportNotReady) ∨
    (f.length ≤ s.params.maxFrameLen ∧ s.cstate = .idle ∧ s.txbusy = false ∧ s.linkOpen = true ∧
      t = (((s.setCstate .awaiting).setTxbusy true).emit (.txw f)).respond .ok []) := by
  rcases withShape_next h with ⟨hs, hk⟩ | ⟨hs, ht⟩
  · have hd := (shapeOk_frame _ _).1 hs
    split at hk
    · next hb => exact .inr (.inl ⟨hd, hb, (Host.Outcome.next.inj hk).symm⟩)
    · next hb =>
      obtain ⟨hc, hb'⟩ := not_or.1 hb
      have hc' := not_not.1 hc
      have hb'' : s.txbusy = false := by simpa using hb'
      split at hk
      · next hl => exact .inr (.inr (.inl ⟨hd, hc', hb'', hl, (Host.Outcome.next.inj hk).symm⟩))
      · next hl => exact .inr (.inr (.inr ⟨hd, hc', hb'', by simpa using hl, (Host.Outcome.next.inj hk).symm⟩))
  · exact .inl ⟨fun hd => (by rw [(shapeOk_frame _ _).2 hd] at hs; cases hs), ht⟩

theorem returnResponse_next {s t : State} (h : returnResponse s = .next t) :
    ∃ r, s.resp = some r ∧ t = ((s.setResp none).setCstate .idle).respond .ok r := by
  simp only [returnResponse] at h
  split at h
  · next r hr => exact ⟨r, hr, (Host.Outcome.next.inj h).symm⟩
  · cases h

theorem execCollect_next {d : Bytes} {s t : State} (h : execCollect d s = .next t) :
    (d ≠ [] ∧ t = s.raise .invalidArgument) ∨
    (d = [] ∧ s.txbusy = true ∧ t = s.raise .busy) ∨
    (d = [] ∧ s.txbusy = false ∧ s.cstate = .idle ∧ t = s.raise .noExchange) ∨
    (d = [] ∧ s.txbusy = false ∧ s.cstate = .awaiting ∧ t = s.raise .waiting) ∨
    (d = [] ∧ s.txbusy = false ∧ s.cstate = .fulfilled ∧
      ∃ r, s.resp = some r ∧ t = ((s.setResp none).setCstate .idle).respond .ok r) ∨
    (d = [] ∧ s.txbusy = false ∧ s.cstate = .wfailed ∧ t = (s.setCstate .idle).raise .transportWriteError) := by
  rcases withShape_next h with ⟨hs, hk⟩ | ⟨hs, ht⟩
  · have hd := (shapeOk_empty s.params d).1 hs
    split at hk
    · next hb => exact .inr (.inl ⟨hd, hb, (Host.Outcome.next.inj hk).symm⟩)
    · next hb =>
      have hb' : s.txbusy = false := by simpa using hb
      split at hk
      · next hc => exact .inr (.inr (.inl ⟨hd, hb', hc, (Host.Outcome.next.inj hk).symm⟩))
      · next hc => exact .inr (.inr (.inr (.inl ⟨hd, hb', hc, (Host.Outcome.next.inj hk).symm⟩)))
      · next hc => exact .inr (.inr (.inr (.inr (.inl ⟨hd, hb', hc, returnResponse_next hk⟩))))
      · next hc => exact .inr (.inr (.inr (.inr (.inr ⟨hd, hb', hc, (Host.Outcome.next.inj hk).symm⟩))))
  · exact .inl ⟨fun hd => (by rw [(shapeOk_empty s.params d).2 hd] at hs; cases hs), ht⟩

theorem execTimeout_next {d : Bytes} {s t : State} (h : execTimeout d s = .next t) :
    (d ≠ [] ∧ t = s.raise .invalidArgument) ∨
    (d = [] ∧ s.txbusy = true ∧ t = s.raise .busy) ∨
    (d = [] ∧ s.txbusy = false ∧ s.cstate = .idle ∧ t = s.raise .noExchange) ∨
    (d = [] ∧ s.txbusy = false ∧ s.cstate = .awaiting ∧ t = (s.setCstate .idle).raise .timedOut) ∨
    (d = [] ∧ s.txbusy = false ∧ s.cstate = .fulfilled ∧
      ∃ r, s.resp = some r ∧ t = ((s.setResp none).setCstate .idle).respond .ok r) ∨
    (d = [] ∧ s.txbusy = false ∧ s.cstate = .wfailed ∧ t = (s.setCstate .idle).raise .transportWriteError) := by
  rcases withShape_next h with ⟨hs, hk⟩ | ⟨hs, ht⟩
  · have hd := (shapeOk_empty s.params d).1 hs
    split at hk
    · next hb => exact .inr (.inl ⟨hd, hb, (Host.Outcome.next.inj hk).symm⟩)
    · next hb =>
      have hb' : s.txbusy = false := by simpa using hb
      split at hk
      · next hc => exact .inr (.inr (.inl ⟨hd, hb', hc, (Host.Outcome.next.inj hk).symm⟩))
      · next hc => exact .inr (.inr (.inr (.inl ⟨hd, hb', hc, (Host.Outcome.next.inj hk).symm⟩)))
      · next hc => exact .inr (.inr (.inr (.inr (.inl ⟨hd, hb', hc, returnResponse_next hk⟩))))
      · next hc => exact .inr (.inr (.inr (.inr (.inr ⟨hd, hb', hc, (Host.Outcome.next.inj hk).symm⟩))))
  · exact .inl ⟨fun hd => (by rw [(shapeOk_empty s.params d).2 hd] at hs; cases hs), ht⟩

theorem execReadStatus_next {d : Bytes} {s t : State} (h : execReadStatus d s = .next t) :
    (d = [] ∧ t = s.respond .ok (statusWord s :: be32 (rxlenRd s))) ∨ (d ≠ [] ∧ t = s.raise .invalidArgument) := by
  rcases withShape_next h with ⟨hs, hk⟩ | ⟨hs, ht⟩
  · exact .inl ⟨(shapeOk_empty s.params d).1 hs, (Host.Outcome.next.inj hk).symm⟩
  · exact .inr ⟨fun hd => (by rw [(shapeOk_empty s.params d).2 hd] at hs; cases hs), ht⟩

theorem execClearOvf_next {d : Bytes} {s t : State} (h : execClearOvf d s = .next t) :
    (d = [] ∧ t = (s.setOvf false).respond .ok []) ∨ (d ≠ [] ∧ t = s.raise .invalidArgument) := by
  rcases withShape_next h with ⟨hs, hk⟩ | ⟨hs, ht⟩
  · exact .inl ⟨(shapeOk_empty s.params d).1 hs, (Host.Outcome.next.inj hk).symm⟩
  · exact .inr ⟨fun hd => (by rw [(shapeOk_empty s.params d).2 hd] at hs; cases hs), ht⟩

theorem execRxChunk_next {d : Bytes} {s t : State} (h : execRxChunk d s = .next t) : t = d.foldl rxByte s :=
  (Host.Outcome.next.inj h).symm

/-- All one received byte can do (41_reassembler.md R130, R139). -/
theorem rxByte_cases (s : State) (b : Byte) :
    (overCap (process (s.setRxbuf (s.rxbuf ++ [b]))).params (process (s.setRxbuf (s.rxbuf ++ [b]))).rxbuf.length = false ∧
      rxByte s b = process (s.setRxbuf (s.rxbuf ++ [b]))) ∨
    (overCap (process (s.setRxbuf (s.rxbuf ++ [b]))).params (process (s.setRxbuf (s.rxbuf ++ [b]))).rxbuf.length = true ∧
      rxByte s b = overflowDrop (process (s.setRxbuf (s.rxbuf ++ [b])))) := by
  simp only [rxByte]
  split
  · next h => exact .inr ⟨h, rfl⟩
  · next h => exact .inl ⟨by simpa using h, rfl⟩

theorem execTxDoneOk_next {d : Bytes} {s t : State} (h : execTxDoneOk d s = .next t) :
    (s.txbusy = true ∧ t = s.setTxbusy false) ∨ (s.txbusy = false ∧ t = s) := by
  simp only [execTxDoneOk] at h
  split at h
  · next hb => exact .inl ⟨hb, (Host.Outcome.next.inj h).symm⟩
  · next hb => exact .inr ⟨by simpa using hb, (Host.Outcome.next.inj h).symm⟩

theorem execTxDoneFail_next {d : Bytes} {s t : State} (h : execTxDoneFail d s = .next t) :
    (s.txbusy = true ∧ t = ((s.setTxbusy false).setResp none).setCstate .wfailed) ∨ (s.txbusy = false ∧ t = s) := by
  simp only [execTxDoneFail] at h
  split at h
  · next hb => exact .inl ⟨hb, (Host.Outcome.next.inj h).symm⟩
  · next hb => exact .inr ⟨by simpa using hb, (Host.Outcome.next.inj h).symm⟩

/-- The only operands that are levels (42_correlator.md R182). -/
theorem linkLevel_some {d : Bytes} {v : Bool} (h : linkLevel d = some v) :
    (d = [0x00#8] ∧ v = false) ∨ (d = [0x01#8] ∧ v = true) := by
  unfold linkLevel at h
  split at h
  · split at h
    · next h0 => exact .inl ⟨by rw [h0], (Option.some.inj h).symm⟩
    · split at h
      · next h1 => exact .inr ⟨by rw [h1], (Option.some.inj h).symm⟩
      · cases h
  · cases h

theorem execLinkState_next {d : Bytes} {s t : State} (h : execLinkState d s = .next t) :
    (∃ v, linkLevel d = some v ∧ t = s.setLinkOpen v) ∨ (linkLevel d = none ∧ t = s) := by
  simp only [execLinkState] at h
  split at h
  · next v hv => exact .inl ⟨v, hv, (Host.Outcome.next.inj h).symm⟩
  · next hv => exact .inr ⟨hv, (Host.Outcome.next.inj h).symm⟩

/-- All one offer can do (20_memory.md R50, 30_encoding.md R82). -/
theorem takeOffer_next {o : Offer} {s t : State} (h : takeOffer o s = .next t) :
    (∃ bs i, o = .host bs ∧ decode .host bs = .instr i ∧ exec i s = .next t) ∨
    (∃ bs, o = .host bs ∧ decode .host bs = .reserved ∧ t = s.raise .illegalCommand) ∨
    (∃ bs i, o = .transport bs ∧ decode .transport bs = .instr i ∧ exec i s = .next t) ∨
    (∃ bs, o = .transport bs ∧ decode .transport bs = .reserved ∧ t = s) ∨
    (o = .reset ∧ t = s.resetElements) := by
  cases o with
  | host bs =>
    simp only [takeOffer, takeHost] at h
    split at h
    · next i hi => exact .inl ⟨bs, i, rfl, hi, h⟩
    · next hi => exact .inr (.inl ⟨bs, rfl, hi, (Host.Outcome.next.inj h).symm⟩)
    · cases h
    · cases h
  | transport bs =>
    simp only [takeOffer, takeTransport] at h
    split at h
    · next i hi => exact .inr (.inr (.inl ⟨bs, i, rfl, hi, h⟩))
    · next hi => exact .inr (.inr (.inr (.inl ⟨bs, rfl, hi, (Host.Outcome.next.inj h).symm⟩)))
    · cases h
    · cases h
  | reset => exact .inr (.inr (.inr (.inr ⟨rfl, (Host.Outcome.next.inj h).symm⟩)))

/-- All a step can do. -/
theorem step_next {s t : State} (h : step s = .next t) :
    (s.offers = [] ∧ t = s) ∨ ∃ o rest, s.offers = o :: rest ∧ takeOffer o (s.setOffers rest) = .next t := by
  simp only [step, stepNext] at h
  split at h
  · next ho => exact .inl ⟨ho, (Host.Outcome.next.inj h).symm⟩
  · next o rest ho => exact .inr ⟨o, rest, ho, h⟩

end Sys2Proof.Machine
end

