-- ==== Sys2Proof/Laws/Agents.lean ====
section
/-! SUPPORT. What a step of the world, of a Host caller and of a system can do. -/

namespace Sys2Proof.Machine

/-! ### the world -/

@[simp] theorem acceptOne_cfe (w : World) : w.acceptOne.cfe = w.cfe := by
  unfold World.acceptOne; split <;> rfl

@[simp] theorem acceptOne_unanswered (w : World) : w.acceptOne.unanswered = w.unanswered := by
  unfold World.acceptOne; split <;> rfl

/-- Accepting moves a frame and loses none (42_correlator.md R178). -/
@[simp] theorem acceptOne_frames (w : World) : w.acceptOne.observed ++ w.acceptOne.handed = w.observed ++ w.handed := by
  unfold World.acceptOne; split <;> simp_all

theorem unsolicitedOf_append (a b : List Event) : unsolicitedOf (a ++ b) = unsolicitedOf a ++ unsolicitedOf b := by
  induction a with
  | nil => rfl
  | cons e a ih => cases e <;> simp [unsolicitedOf, ih]

theorem writesOf_append (a b : List Event) : writesOf (a ++ b) = writesOf a ++ writesOf b := by
  induction a with
  | nil => rfl
  | cons e a ih => cases e <;> simp [writesOf, ih]

/-- The Observer is the one agent that makes no offer (60_exceptions.md R260). -/
theorem offer_eq_none {a : Action} : a.offer = none ↔ a = .accept := by
  cases a <;> simp [Action.offer] <;> split <;> simp_all

/-- All a step of the world can do. -/
theorem act_next {a : Action} {w w' : World} (h : w.act a = .next w') :
    (a = .accept ∧ w' = w.acceptOne) ∨
    ∃ o t, a.offer = some o ∧ step (w.cfe.setOffers (o :: w.cfe.offers)) = .next t ∧
      w' = { cfe := t
             unanswered := outstandingAfter a w.unanswered ++ writesOf (t.history.drop w.cfe.history.length)
             handed := w.handed ++ unsolicitedOf (t.history.drop w.cfe.history.length)
             observed := w.observed } := by
  simp only [World.act] at h
  split at h
  · next o ho =>
    simp only [World.offered] at h
    split at h
    · next t ht => exact .inr ⟨o, t, ho, ht, (Host.Outcome.next.inj h).symm⟩
    · cases h
    · cases h
  · next ho => exact .inl ⟨offer_eq_none.1 ho, (Host.Outcome.next.inj h).symm⟩

/-! ### a Host caller -/

/-- A Host operation's call is its meaning, and the result the last one returned (30_encoding.md R76). -/
theorem hostCall_eq (i : Instr) (s : State) (hw : i.wellFormed = true) (h : decode .host (encode i) = .instr i) :
    hostCall i s =
      match exec i s with
      | .next t => .next (t.results.getLast?, t)
      | .fault r => .fault r
      | .refused r => .refused r := by
  simp only [hostCall, hw, if_true, step, stepNext, setOffers_offers, takeOffer, takeHost, h]
  rfl

/-- An operand that no transaction can carry is not offered (R76; log 20). -/
theorem hostCall_of_too_long (i : Instr) (s : State) (h : i.wellFormed = false) :
    hostCall i s = .next (some (emptyResult .invalidArgument), s) := by
  simp [hostCall, h]

/-- A failed builder issues no operation (43_host_payload_builders.md R210). -/
@[simp] theorem requestFrame_error (rc : RC) (s : State) : requestFrame (.error rc) s = .next (.error rc, s) := rfl

/-- All the first step of a builder's request can lead to: a failure, or the EXCHANGE of ENCODE's frame (30_encoding.md R85). -/
theorem requestStep_building {expired : Bool} {q : Request} {s t : State} {ph : RequestPhase}
    (h : requestStep expired (.building q) s = .next (ph, t)) :
    ∃ out, requestFrame q.payload s = .next (out, t) ∧
      ((∃ f, out = .ok f ∧ ph = .exchanging (.starting f)) ∨ ∃ rc, out = .error rc ∧ ph = .done (emptyResult rc)) := by
  simp only [requestStep] at h
  split at h
  · next out u hu =>
    obtain ⟨rfl, rfl⟩ := Prod.mk.inj (Host.Outcome.next.inj h)
    cases out with
    | ok f => exact ⟨_, hu, .inl ⟨f, rfl, rfl⟩⟩
    | error rc => exact ⟨_, hu, .inr ⟨rc, rfl, rfl⟩⟩
  · cases h
  · cases h

/-- All a step of the request's EXCHANGE can lead to: that step, whose result goes on to DECODE (R85, R221). -/
theorem requestStep_exchanging {expired : Bool} {ex : Phase} {s t : State} {ph : RequestPhase}
    (h : requestStep expired (.exchanging ex) s = .next (ph, t)) :
    ∃ after, exchangeStep expired ex s = .next (after, t) ∧ ph = afterExchange after := by
  simp only [requestStep] at h
  split at h
  · next after u hu =>
    obtain ⟨rfl, rfl⟩ := Prod.mk.inj (Host.Outcome.next.inj h)
    exact ⟨after, hu, rfl⟩
  · cases h
  · cases h

/-! ### a reset -/

/-- The reset input always completes (70_reset_and_hazards.md R280). -/
@[simp] theorem resetCall_eq (s : State) : resetCall s = .next s.resetElements := rfl

/-- A reset sets the CFE's elements and abandons an exchange in progress (R281). -/
theorem exchangeReset_eq (ph : Phase) (s : State) : exchangeReset ph s = .next (ph.onReset, s.resetElements) := rfl

theorem requestReset_eq (ph : RequestPhase) (s : State) : requestReset ph s = .next (ph.onReset, s.resetElements) := rfl

/-- An abandoned caller issues nothing more and gets no result, whatever comes later (R281, R284 H2). -/
theorem exchangeStep_abandoned (expired : Bool) (s : State) : exchangeStep expired .abandoned s = .next (.abandoned, s) := rfl

/-- A caller that has returned keeps its result; no other caller has one after a reset (R281). -/
theorem onReset_eq_finished {ph : Phase} {r : Result} : ph.onReset = .finished r ↔ ph = .finished r := by
  cases ph <;> simp [Phase.onReset]

/-! ### a system -/

@[simp] theorem setInstance_instances (k : Nat) (t : State) (sys : System) :
    (sys.setInstance k t).instances = sys.instances.set k t := rfl

@[simp] theorem setInstance_numInstances (k : Nat) (t : State) (sys : System) :
    (sys.setInstance k t).numInstances = sys.numInstances := by simp [System.numInstances]

/-- All a step of an instance can do. -/
theorem systemStep_next {k : Nat} {sys sys' : System} (h : sys.step k = some (.next sys')) :
    ∃ s t, sys.instances[k]? = some s ∧ step s = .next t ∧ sys' = sys.setInstance k t := by
  simp only [System.step] at h
  split at h
  · cases h
  · next s hs =>
    split at h
    · next t ht => exact ⟨s, t, hs, ht, (Host.Outcome.next.inj (Option.some.inj h)).symm⟩
    · cases h
    · cases h

end Sys2Proof.Machine
end

