-- ==== Sys2Proof/Laws/PerInstr.lean ====
section
/-! SUPPORT. A family of facts about every operation as syntax, one lemma per constructor. -/

namespace Sys2Proof.Laws.TransactionShape

/-- The transaction of an operation is `3 + LEN` bytes long, begins with the operation's code, and bit 7 of that code names the
operation's port (30_encoding.md R76, R79). -/
def Statement (i : Instr) : Prop :=
  (Sys2Proof.encode i).length = 3 + i.data.length ∧ (Sys2Proof.encode i).head? = some (opcode i) ∧
    portOfCode (opcode i) = i.port

theorem of_code (i : Instr) (h : portOfCode (opcode i) = i.port) : Statement i :=
  ⟨by simp only [Sys2Proof.encode, List.length_cons, List.length_append, length_be16]; omega, rfl, h⟩

theorem bcc (data : Bytes) : Statement (.bcc data) :=
  of_code _ (show portOfCode 0x01#8 = .host by decide)

theorem encode (data : Bytes) : Statement (.encode data) :=
  of_code _ (show portOfCode 0x02#8 = .host by decide)

theorem decode (data : Bytes) : Statement (.decode data) :=
  of_code _ (show portOfCode 0x03#8 = .host by decide)

theorem exchStart (data : Bytes) : Statement (.exchStart data) :=
  of_code _ (show portOfCode 0x04#8 = .host by decide)

theorem collect (data : Bytes) : Statement (.collect data) :=
  of_code _ (show portOfCode 0x05#8 = .host by decide)

theorem timeout (data : Bytes) : Statement (.timeout data) :=
  of_code _ (show portOfCode 0x06#8 = .host by decide)

theorem readStatus (data : Bytes) : Statement (.readStatus data) :=
  of_code _ (show portOfCode 0x07#8 = .host by decide)

theorem clearOvf (data : Bytes) : Statement (.clearOvf data) :=
  of_code _ (show portOfCode 0x08#8 = .host by decide)

theorem rxChunk (data : Bytes) : Statement (.rxChunk data) :=
  of_code _ (show portOfCode 0x81#8 = .transport by decide)

theorem rxFault (data : Bytes) : Statement (.rxFault data) :=
  of_code _ (show portOfCode 0x82#8 = .transport by decide)

theorem txDoneOk (data : Bytes) : Statement (.txDoneOk data) :=
  of_code _ (show portOfCode 0x83#8 = .transport by decide)

theorem txDoneFail (data : Bytes) : Statement (.txDoneFail data) :=
  of_code _ (show portOfCode 0x84#8 = .transport by decide)

theorem linkState (data : Bytes) : Statement (.linkState data) :=
  of_code _ (show portOfCode 0x85#8 = .transport by decide)

end Sys2Proof.Laws.TransactionShape
end

