-- ==== Sys2Proof/Tests/Slice0.lean ====
section
/-! SUPPORT. The model's own tests: words written out from the spec's encodings, the spec's vectors (95_test_vectors.md), the
WellFormed smoke test, and a witness for the hypotheses of every statement that has some. -/

namespace Sys2Proof.Tests

open Sys2Proof Sys2Proof.Machine

/-- The next state of an outcome. -/
def nextOf : StepOutcome → Option State
  | .next s => some s
  | .fault _ => none
  | .refused _ => none

/-- The fault of an outcome. -/
def faultOf : StepOutcome → Option Fault
  | .next _ => none
  | .fault r => some r
  | .refused _ => none

/-- The refusal of an outcome. -/
def refusalOf : StepOutcome → Option Refusal
  | .next _ => none
  | .fault _ => none
  | .refused r => some r

/-- Bytes from their numbers. -/
def hex (l : List Nat) : Bytes := l.map (BitVec.ofNat 8)

/-- `05 41 04 40`, the frame of the vectors CO-*. -/
def f : Bytes := hex [0x05, 0x41, 0x04, 0x40]

/-- An operation offered at its port and taken, as a step. -/
def take (i : Instr) (s : State) : Option State := nextOf (step { s with offers := [offerAt i.port (encode i)] })

/-- The result an operation returns: its code's number and its data. -/
def answer (i : Instr) (s : State) : Option (Nat × Bytes) :=
  (take i s).bind fun t => t.results.getLast?.map fun r => (r.rc.code.toNat, r.rdata)

/-- The STATUS number after an operation. -/
def statusAfter (i : Instr) (s : State) : Option Nat := (take i s).map fun t => (statusWord t).toNat

/-- `RX_BUF_CAP = 4` (vectors RV-16, RV-17, RV-23). -/
def cap4 : State := { State.reset with params := { Params.reference with rxBufCap := .finite 4 } }

/-- `MAX_FRAME_LEN = 5`, to reach the bound with few bytes. -/
def short : State := { State.reset with params := { Params.reference with maxFrameLen := 5 } }

/-- IDLE with the link open, STATUS 0x08. -/
def idle : State := { State.reset with linkOpen := true }

/-- AWAITING in the write, STATUS 0x0D. -/
def writing : State := { idle with cstate := .awaiting, txbusy := true, history := [.txw f] }

/-- AWAITING, STATUS 0x09. -/
def awaiting : State := { idle with cstate := .awaiting }

/-- FULFILLED with `f`, STATUS 0x0A. -/
def fulfilled : State := { idle with cstate := .fulfilled, resp := some f }

/-- WFAILED, STATUS 0x0B. -/
def wfailed : State := { idle with cstate := .wfailed }

/-! ### WellFormed -/

theorem wellFormed_replicate (n : Nat) : (Instr.bcc (List.replicate n 0#8)).wellFormed = decide (n ≤ 65535) := by
  simp [Instr.wellFormed, Instr.data, maxField]

/-- The one check of WellFormed, `LEN ≤ 65535`, refuses an operand of 65536 bytes. -/
theorem test_wellFormed_refuses_long : (Instr.bcc (List.replicate 65536 0#8)).wellFormed = false := wellFormed_replicate 65536

/-- It admits the largest operand. -/
theorem test_wellFormed_admits_bound : (Instr.bcc (List.replicate 65535 0#8)).wellFormed = true := wellFormed_replicate 65535

/-! ### Decoding: every row's word, written out from R76, R80 and R81 -/

theorem test_decode_host_words :
    decode .host (hex [0x01, 0x00, 0x01, 0x41]) = .instr (.bcc (hex [0x41])) ∧
    decode .host (hex [0x02, 0x00, 0x01, 0x41]) = .instr (.encode (hex [0x41])) ∧
    decode .host (hex [0x03, 0x00, 0x04, 0x05, 0x41, 0x04, 0x40]) = .instr (.decode f) ∧
    decode .host (hex [0x04, 0x00, 0x04, 0x05, 0x41, 0x04, 0x40]) = .instr (.exchStart f) ∧
    decode .host (hex [0x05, 0x00, 0x00]) = .instr (.collect []) ∧
    decode .host (hex [0x06, 0x00, 0x00]) = .instr (.timeout []) ∧
    decode .host (hex [0x07, 0x00, 0x00]) = .instr (.readStatus []) ∧
    decode .host (hex [0x08, 0x00, 0x00]) = .instr (.clearOvf []) := by decide

theorem test_decode_transport_words :
    decode .transport (hex [0x81, 0x00, 0x02, 0x05, 0x41]) = .instr (.rxChunk (hex [0x05, 0x41])) ∧
    decode .transport (hex [0x82, 0x00, 0x00]) = .instr (.rxFault []) ∧
    decode .transport (hex [0x83, 0x00, 0x00]) = .instr (.txDoneOk []) ∧
    decode .transport (hex [0x84, 0x00, 0x00]) = .instr (.txDoneFail []) ∧
    decode .transport (hex [0x85, 0x00, 0x01, 0x01]) = .instr (.linkState (hex [0x01])) := by decide

/-- `LEN` is big-endian: 0x0100 asks for 256 bytes. -/
theorem test_length_is_big_endian :
    be16 0x0102 = hex [0x01, 0x02] ∧ be16Value 0x01#8 0x00#8 = 256 ∧
    decode .host (hex [0x01, 0x01, 0x00, 0x41]) = .truncated := by decide

/-- The table's words: the code in bits 7..0, LEN in bits 23..8 (high byte first), operand bytes of zeros. -/
theorem test_table_words :
    decodeTableWord 8 0x85 = some (.linkState []) ∧ decodeTableWord 24 0x020001 = some (.bcc (hex [0, 0])) ∧
    decodeTableWord 8 0x09 = none := by decide

theorem test_fetch_word_runs_it : nextOf (step (State.reset.withFetchWord 8 0x01)) = some (answered .ok [0x00#8] State.reset) := by
  decide

/-! ### Codec -/

/-- CD-1, CD-2, CD-3. -/
theorem test_bcc :
    answer (.bcc []) State.reset = some (0, hex [0x00]) ∧ answer (.bcc (hex [0x05, 0x41, 0x04])) State.reset = some (0, hex [0x40]) ∧
    answer (.bcc f) State.reset = some (0, hex [0x00]) := by decide

/-- CD-4, CD-6, CD-7, CD-8. -/
theorem test_encode :
    answer (.encode []) State.reset = some (0, hex [0x05, 0x04, 0x01]) ∧
    answer (.encode (hex [0x05])) State.reset = some (0, hex [0x05, 0x05, 0x04, 0x04]) ∧
    answer (.encode (hex [0x04])) State.reset = some (0, hex [0x05, 0x04, 0x04, 0x05]) ∧
    answer (.encode (hex [0xFF, 0x00, 0x80])) State.reset = some (0, hex [0x05, 0xFF, 0x00, 0x80, 0x04, 0x7E]) := by decide

/-- CD-5: the result's bytes on the port. -/
theorem test_encode_result_bytes :
    (take (.encode (hex [0x41])) State.reset).bind (fun t => t.results.getLast?.map Result.bytes) =
      some (hex [0x00, 0x00, 0x04, 0x05, 0x41, 0x04, 0x40]) := by decide

/-- CD-9 to CD-13, CD-19. -/
theorem test_decode_payloads :
    answer (.decode (hex [0x05, 0x04, 0x01])) State.reset = some (0, []) ∧
    answer (.decode (hex [0x05, 0x05, 0x04, 0x04])) State.reset = some (0, hex [0x05]) ∧
    answer (.decode (hex [0x05, 0x04, 0x04, 0x05])) State.reset = some (0, []) ∧
    answer (.decode (hex [0x05, 0x41, 0x04])) State.reset = some (0, hex [0x41]) ∧
    answer (.decode (hex [0x05, 0x41, 0x04, 0xFF])) State.reset = some (0, hex [0x41]) ∧
    answer (.decode (hex [0x05, 0x41, 0x04, 0x40, 0x05, 0x42, 0x04, 0x43])) State.reset = some (0, hex [0x41]) := by decide

/-- CD-14 to CD-18. -/
theorem test_decode_failures :
    answer (.decode (hex [0x05, 0x04])) State.reset = some (4, []) ∧
    answer (.decode (hex [0x04, 0x41, 0x04, 0x40])) State.reset = some (4, []) ∧
    answer (.decode []) State.reset = some (4, []) ∧
    answer (.decode (hex [0x05, 0x41, 0x42])) State.reset = some (5, []) ∧
    answer (.decode (hex [0x04, 0x41, 0x42])) State.reset = some (4, []) := by decide

/-! ### Reassembler (each vector starts from an empty buffer and IDLE) -/

/-- The events, the buffer and the overflow flag that chunks leave. -/
structure Received where
  events : List Event
  buffer : Bytes
  ovf : Bool
deriving DecidableEq

def received (chunks : List Bytes) (s : State) : Option Received :=
  (nextOf (rxChunks chunks s)).map fun t => Received.mk t.history t.rxbuf t.ovf

/-- RV-3, RV-4, RV-6, RV-8, RV-10. -/
theorem test_rxChunk_frames :
    received [hex [0x05, 0x41, 0x04, 0x40, 0x05, 0x42, 0x04, 0x43]] State.reset =
      some ⟨[.unsol f, .unsol (hex [0x05, 0x42, 0x04, 0x43])], [], false⟩ ∧
    received [hex [0xFF, 0x00, 0x41, 0x05, 0x41, 0x04, 0x40]] State.reset = some ⟨[.unsol f], [], false⟩ ∧
    received [hex [0x05, 0x41, 0x04, 0xFF, 0x05, 0x42, 0x04, 0x43]] State.reset =
      some ⟨[.unsol (hex [0x05, 0x42, 0x04, 0x43])], [], false⟩ ∧
    received [hex [0x05, 0x05, 0x05, 0x42, 0x04, 0x43]] State.reset =
      some ⟨[.unsol (hex [0x05, 0x05, 0x05, 0x42, 0x04, 0x43])], [], false⟩ ∧
    received [hex [0x05, 0x41, 0x0C, 0x40, 0x05, 0x42, 0x04, 0x43]] State.reset =
      some ⟨[.unsol (hex [0x05, 0x42, 0x04, 0x43])], [], false⟩ := by decide

/-- RV-14, RV-19, RV-20, RV-21, and RV-16, RV-17 with `RX_BUF_CAP = 4`. -/
theorem test_rxChunk_corners :
    received [hex [0x05, 0x41], hex [0x04]] State.reset = some ⟨[], hex [0x05, 0x41, 0x04], false⟩ ∧
    received [hex [0x05, 0x04, 0x04, 0x05]] State.reset = some ⟨[], hex [0x05], false⟩ ∧
    received [hex [0x05, 0x41], hex [0x04, 0xFF]] State.reset = some ⟨[], [], false⟩ ∧
    received [hex [0x05, 0x05, 0x0C, 0x04, 0x05, 0x42, 0x04, 0x43]] State.reset =
      some ⟨[.unsol (hex [0x05, 0x42, 0x04, 0x43])], [], false⟩ ∧
    received [hex [0x05, 0x41, 0x42, 0x43, 0x44, 0x04]] cap4 = some ⟨[], [], true⟩ ∧
    received [hex [0x05, 0x41, 0x42, 0x04, 0x02]] cap4 = some ⟨[.unsol (hex [0x05, 0x41, 0x42, 0x04, 0x02])], [], false⟩ := by decide

/-- RV-24. -/
theorem test_rxFault :
    take (.rxFault (hex [0x01])) { State.reset with rxbuf := hex [0x05, 0x41] } =
      some { State.reset with rxbuf := hex [0x05, 0x41] } := by decide

/-! ### Exchange marker and status -/

/-- CO-2, CO-3, CO-4, CO-22. -/
theorem test_exchStart :
    answer (.exchStart f) State.reset = some (2, []) ∧ take (.exchStart f) idle = some (answered .ok [] writing) ∧
    answer (.exchStart f) writing = some (3, []) ∧ answer (.exchStart f) fulfilled = some (3, []) := by decide

/-- CO-5, CO-6, CO-7, CO-8, CO-10. -/
theorem test_collect :
    answer (.collect []) writing = some (8, []) ∧ answer (.collect []) awaiting = some (9, []) ∧
    take (.collect []) fulfilled = some (answered .ok f idle) ∧ answer (.collect []) idle = some (10, []) ∧
    take (.collect []) wfailed = some (answered .transportWriteError [] idle) := by decide

/-- CO-9, CO-13. -/
theorem test_timeout :
    answer (.timeout []) writing = some (8, []) ∧ take (.timeout []) awaiting = some (answered .timedOut [] idle) ∧
    take (.timeout []) fulfilled = some (answered .ok f idle) ∧ answer (.timeout []) idle = some (10, []) := by decide

/-- CO-6, CO-15. -/
theorem test_txDoneOk : statusAfter (.txDoneOk []) writing = some 0x09 ∧ take (.txDoneOk []) idle = some idle := by decide

/-- CO-10, CO-12, CO-15. -/
theorem test_txDoneFail :
    statusAfter (.txDoneFail []) writing = some 0x0B ∧
    (take (.txDoneFail []) { fulfilled with txbusy := true }).map State.resp = some none ∧
    take (.txDoneFail []) idle = some idle := by decide

/-- CO-16, CO-17. -/
theorem test_linkState :
    statusAfter (.linkState (hex [0x01])) State.reset = some 0x08 ∧ statusAfter (.linkState (hex [0x00])) awaiting = some 0x01 ∧
    take (.linkState (hex [0x02])) idle = some idle ∧ take (.linkState (hex [0x01, 0x01])) State.reset = some State.reset := by
  decide

/-- CO-1, PR-1 step 8. -/
theorem test_readStatus :
    answer (.readStatus []) State.reset = some (0, hex [0, 0, 0, 0, 0]) ∧
    answer (.readStatus []) { awaiting with rxbuf := hex [0x05, 0x30, 0x30, 0x52, 0x53, 0x42, 0x30] } =
      some (0, hex [0x09, 0, 0, 0, 0x07]) := by decide

/-- CO-21, CO-19's shape check. -/
theorem test_clearOvf :
    take (.clearOvf []) { idle with ovf := true } = some (answered .ok [] idle) ∧
    answer (.clearOvf (hex [0x00])) { idle with ovf := true } = some (1, []) := by decide

/-- CO-7's delivery and CO-14: the first frame of a chunk fulfils, the second is unsolicited. -/
theorem test_delivery :
    take (.rxChunk f) awaiting = some fulfilled ∧
    take (.rxChunk (f ++ hex [0x05, 0x42, 0x04, 0x43])) awaiting =
      some { fulfilled with history := [.unsol (hex [0x05, 0x42, 0x04, 0x43])] } := by decide

/-- CO-24. -/
theorem test_reset_step :
    nextOf (step { writing with offers := [.reset] }) = some { State.reset with history := [.txw f] } := by decide

/-! ### The Host: builders and EXCHANGE -/

/-- `%MW100`. -/
def mw100 : Bytes := hex [0x25, 0x4D, 0x57, 0x31, 0x30, 0x30]

/-- HB-7, HB-9, HB-10. -/
theorem test_builders :
    buildWriteNum [mw100] [255] false defaultStation =
      .ok (hex [0x30, 0x30, 0x57, 0x53, 0x53, 0x30, 0x31, 0x30, 0x36, 0x25, 0x4D, 0x57, 0x31, 0x30, 0x30, 0x30, 0x33, 0x32, 0x35,
        0x35]) ∧
    buildReadBlock (hex [0x20] ++ mw100 ++ hex [0x20]) 10 (hex [0x31]) =
      .ok (hex [0x30, 0x31, 0x52, 0x53, 0x42, 0x30, 0x36, 0x25, 0x4D, 0x57, 0x31, 0x30, 0x30, 0x31, 0x30]) ∧
    buildReadBlock mw100 10 (hex [0x31, 0x32, 0x33]) =
      .ok (hex [0x31, 0x32, 0x33, 0x52, 0x53, 0x42, 0x30, 0x36, 0x25, 0x4D, 0x57, 0x31, 0x30, 0x30, 0x31, 0x30]) := by
  exact ⟨rfl, rfl, rfl⟩

/-- HB-11 to HB-20. -/
theorem test_builder_failures :
    buildReadBlock mw100 10 (hex [0x20, 0x20]) = .error .invalidArgument ∧
    buildRead [] defaultStation = .error .invalidArgument ∧ buildRead [hex [0x20, 0x20]] defaultStation = .error .invalidArgument ∧
    buildWrite [mw100] [] defaultStation = .error .invalidArgument ∧
    buildWrite [mw100, mw100] [hex [0x31]] defaultStation = .error .invalidArgument ∧
    buildReadBlock mw100 (-1) defaultStation = .error .invalidArgument ∧
    buildReadBlock mw100 100 defaultStation = .error .invalidArgument ∧
    buildWriteBlock mw100 [65536] defaultStation = .error .invalidArgument ∧
    buildWriteBlock mw100 [] defaultStation = .error .invalidArgument ∧
    buildWriteNum [mw100] [-1] true defaultStation = .error .invalidArgument := by
  exact ⟨rfl, rfl, rfl, rfl, rfl, rfl, rfl, rfl, rfl, rfl⟩

/-- The phase an EXCHANGE step answers. -/
def phaseOf : Host.Outcome (Phase × State) Fault Refusal → Option Phase
  | .next (ph, _) => some ph
  | .fault _ => none
  | .refused _ => none

/-- R185, from the start to each kind of return. -/
theorem test_exchange :
    phaseOf (exchangeStep false (.starting f) idle) = some .writing ∧
    phaseOf (exchangeStep false (.starting f) writing) = some (.finished { rc := .alreadyPending, rlen := 0#16, rdata := [] }) ∧
    phaseOf (exchangeStep true .writing writing) = some .writing ∧ phaseOf (exchangeStep false .writing awaiting) = some .waiting ∧
    phaseOf (exchangeStep false .waiting fulfilled) = some .collecting ∧
    phaseOf (exchangeStep false .collecting fulfilled) = some (.finished { rc := .ok, rlen := 4#16, rdata := f }) := by decide

/-- The phase a step of a builder's request answers. -/
def requestPhaseOf : Host.Outcome (RequestPhase × State) Fault Refusal → Option RequestPhase
  | .next (ph, _) => some ph
  | .fault _ => none
  | .refused _ => none

/-- R85: the frame of `READ_BLOCK("%MW100", 10)` starts the EXCHANGE (EX-1); a failed builder ends the request at once (R210); a response
goes through DECODE (R221). -/
theorem test_request :
    requestPhaseOf (requestStep false (.building (.readBlock mw100 10 defaultStation)) idle) =
      some (.exchanging (.starting (hex [0x05, 0x30, 0x30, 0x52, 0x53, 0x42, 0x30, 0x36, 0x25, 0x4D, 0x57, 0x31, 0x30, 0x30, 0x31, 0x30,
        0x04, 0x4B]))) ∧
    requestPhaseOf (requestStep false (.building (.read [] defaultStation)) idle) = some (.done (emptyResult .invalidArgument)) ∧
    requestPhaseOf (requestStep false (.exchanging .collecting) fulfilled) = some (.parsing { rc := .ok, rlen := 4#16, rdata := f }) ∧
    requestPhaseOf (requestStep false (.parsing { rc := .ok, rlen := 4#16, rdata := f }) idle) =
      some (.done { rc := .ok, rlen := 1#16, rdata := [0x41#8] }) := by
  refine ⟨by decide, by decide, by decide, by decide⟩

/-- R281: a reset while the caller waits abandons its exchange, and it gets nothing of a later one. -/
theorem test_reset_abandons :
    phaseOf (exchangeReset .waiting fulfilled) = some .abandoned ∧ phaseOf (exchangeReset (.starting f) idle) = some (.starting f) ∧
    phaseOf (exchangeStep true .abandoned fulfilled) = some .abandoned := by decide

/-! ### Witnesses: states and operands that meet the hypotheses of a statement, each clause at a boundary -/

/-- ReservedCodesChangeNoState (CO-20). -/
theorem witness_reserved_codes :
    (∀ code ∈ [0x00, 0x09, 0x7F, 0x80, 0xFF],
      nextOf (step { idle with offers := [.host (hex [code, 0x00, 0x00])] }) = some (answered .illegalCommand [] idle)) ∧
    (∀ code ∈ [0x00, 0x80, 0x86, 0xFF], nextOf (step { idle with offers := [.transport (hex [code, 0x00, 0x00])] }) = some idle) := by
  decide

/-- StepRunsTheOfferedOperation. -/
theorem witness_step_runs :
    decode .host (hex [0x07, 0x00, 0x00]) = .instr (.readStatus []) ∧
    nextOf (step { idle with offers := [offerAt .host (hex [0x07, 0x00, 0x00])] }) = nextOf (exec (.readStatus []) idle) := by decide

/-- NothingOfferedNothingChanges. -/
theorem witness_nothing_offered : State.reset.offers = [] ∧ nextOf (step State.reset) = some State.reset := by decide

/-- BytesThatAreNotWholeAreRefused: one byte short (and the largest LEN), one byte long. -/
theorem witness_not_whole :
    refusalOf (step { idle with offers := [.host (hex [0x01, 0x00, 0x01])] }) = some .truncatedTransaction ∧
    refusalOf (step { idle with offers := [.transport (hex [0x81, 0xFF, 0xFF])] }) = some .truncatedTransaction ∧
    refusalOf (step { idle with offers := [.host (hex [0x05, 0x00, 0x00, 0x00])] }) = some .overlongTransaction := by decide

/-- EncodeWrapsThePayload and PayloadRoundTripsExactlyWithoutEnd: at the bound, and one byte over it. -/
theorem witness_encode :
    short.params.inRange = true ∧ (hex [0x41, 0x42]).length ≤ short.params.maxFrameLen - 3 ∧
    answer (.encode (hex [0x41, 0x42])) short = some (0, hex [0x05, 0x41, 0x42, 0x04, 0x02]) ∧
    answer (.encode (hex [0x41, 0x42, 0x43])) short = some (1, []) := by decide

/-- DecodeExtractsThePayload: each clause, at the lengths 6 (over the bound), 2, 3 and 5. -/
theorem witness_decode :
    short.params.inRange = true ∧ answer (.decode (hex [0x05, 0x41, 0x41, 0x41, 0x04, 0x00])) short = some (1, []) ∧
    answer (.decode (hex [0x05, 0x04])) short = some (4, []) ∧ answer (.decode (hex [0x05, 0x41, 0x42])) short = some (5, []) ∧
    answer (.decode (hex [0x05, 0x04, 0x01])) short = some (0, []) ∧
    answer (.decode (hex [0x05, 0x41, 0x42, 0x04, 0x02])) short = some (0, hex [0x41, 0x42]) := by decide

/-- EndInPayloadCutsIt: END first, and END last, at the bound. -/
theorem witness_end_in_payload :
    short.params.inRange = true ∧ 0x04#8 ∉ hex [0x41] ∧ (hex [0x41] ++ 0x04#8 :: []).length ≤ short.params.maxFrameLen - 3 ∧
    answer (.encode (hex [0x41, 0x04])) short = some (0, hex [0x05, 0x41, 0x04, 0x04, 0x44]) ∧
    answer (.decode (hex [0x05, 0x41, 0x04, 0x04, 0x44])) short = some (0, hex [0x41]) ∧
    answer (.decode (hex [0x05, 0x04, 0x04, 0x05])) short = some (0, []) := by decide

/-- BufferWithoutStartIsEmptied (RV-5) and NoiseBeforeStartIsDiscarded. -/
theorem witness_noise :
    0x05#8 ∉ hex [0x41, 0x42, 0x04, 0x01] ∧
    process { idle with rxbuf := hex [0x41, 0x42, 0x04, 0x01] } = idle ∧ 0x05#8 ∉ hex [0x04] ∧
    process { idle with rxbuf := hex [0x04] ++ 0x05#8 :: [] } = { idle with rxbuf := hex [0x05] } := by decide

/-- ValidCandidateIsDelivered and WrongChecksumDropsOneByte: the shortest candidates. -/
theorem witness_candidates :
    0x04#8 ∉ ([] : Bytes) ∧ 0x01#8 = xorfold (0x05#8 :: ([] ++ [0x04#8])) ∧ 0x02#8 ≠ xorfold (0x05#8 :: ([] ++ [0x04#8])) ∧
    process { idle with rxbuf := hex [0x05, 0x04, 0x01] } = { idle with history := [.unsol (hex [0x05, 0x04, 0x01])] } ∧
    process { idle with rxbuf := hex [0x05, 0x04, 0x02] } = idle := by decide

/-- IncompleteCandidateWaits: START alone, and END as the last byte. -/
theorem witness_waits :
    0x04#8 ∉ ([] : Bytes).dropLast ∧ 0x04#8 ∉ (hex [0x41, 0x04]).dropLast ∧
    process { idle with rxbuf := hex [0x05] } = { idle with rxbuf := hex [0x05] } ∧
    process { idle with rxbuf := hex [0x05, 0x41, 0x04] } = { idle with rxbuf := hex [0x05, 0x41, 0x04] } := by decide

/-- RxChunkTakesItsBytesInOrder and OneOverflowDropIsEnough: a full buffer, one more byte, with and without an overflow. -/
theorem witness_overflow :
    cap4.params.rxBufCap = .finite 4 ∧ (hex [0x05, 0x05, 0x42, 0x43]).length ≤ 4 ∧
    (take (.rxChunk (hex [0x44])) { cap4 with rxbuf := hex [0x05, 0x05, 0x42, 0x43] }).map (fun t => (t.rxbuf, t.ovf)) =
      some (hex [0x05, 0x42, 0x43, 0x44], true) ∧
    (take (.rxChunk (hex [0x42])) { cap4 with rxbuf := hex [0x05, 0x05, 0x05] }).map (fun t => (t.rxbuf, t.ovf)) =
      some (hex [0x05, 0x05, 0x05, 0x42], false) ∧
    idle.params.rxBufCap = .inf := by decide

/-- ChunkCutsMakeNoDifference: the capacity is INF and the buffer at rest, in each of R23's three forms. -/
theorem witness_at_rest :
    idle.params.rxBufCap = .inf ∧ atRest [] = true ∧ atRest (hex [0x05, 0x41]) = true ∧ atRest (hex [0x05, 0x41, 0x04]) = true ∧
    atRest (hex [0x05, 0x04, 0x41]) = false ∧ atRest (hex [0x41]) = false := by decide

/-- NoiseThenFrameIsDelivered: with INF, and with the least capacity that admits the frame (3 for a frame of 4 bytes). -/
theorem witness_noise_then_frame :
    idle.rxbuf = [] ∧ 0x05#8 ∉ hex [0xFF, 0x04] ∧ 0x04#8 ∉ hex [0x41] ∧ idle.params.rxBufCap = .inf ∧ (hex [0x41]).length + 3 ≤ 3 + 1 ∧
    take (.rxChunk (hex [0xFF, 0x04] ++ frameOf (hex [0x41]))) { awaiting with params := { awaiting.params with rxBufCap := .finite 3 } } =
      some { fulfilled with params := { awaiting.params with rxBufCap := .finite 3 } } := by decide

/-- FlippedBitIsDetected: the START, the first and last payload byte, the checksum (RV-9, RV-11, RV-12). -/
theorem witness_flipped_bit :
    0x04#8 ∉ hex [0x41] ∧ (frameOf (hex [0x41])).getD 1 0x00#8 ^^^ BitVec.twoPow 8 0 ≠ 0x04#8 ∧
    (frameOf (hex [0x41])).modify 0 (· ^^^ BitVec.twoPow 8 0) = hex [0x04, 0x41, 0x04, 0x40] ∧
    (frameOf (hex [0x41])).modify 1 (· ^^^ BitVec.twoPow 8 7) = hex [0x05, 0xC1, 0x04, 0x40] ∧
    (frameOf (hex [0x41])).modify 3 (· ^^^ BitVec.twoPow 8 0) = hex [0x05, 0x41, 0x04, 0x41] ∧
    process { idle with rxbuf := hex [0x05, 0xC1, 0x04, 0x40] } = idle := by decide

/-- FalseAnchorIsAcceptedOnZeroParity: RV-8 (accepted) and RV-7 (not). -/
theorem witness_false_anchor :
    0x04#8 ∉ hex [0x05] ∧ 0x04#8 ∉ hex [0x42] ∧ xorfold (0x05#8 :: hex [0x05]) = 0x00#8 ∧ xorfold (0x05#8 :: hex [0x41]) ≠ 0x00#8 ∧
    process { idle with rxbuf := hex [0x05, 0x41, 0x05, 0x42, 0x04, 0x43] } =
      { idle with history := [.unsol (hex [0x05, 0x42, 0x04, 0x43])] } := by decide

/-- DetectionIsColumnParity: a detected pattern, and a missed one. -/
theorem witness_detection :
    frameValid f = true ∧ f.length = (hex [0, 1, 0, 0]).length ∧
    frameValid (List.zipWith (· ^^^ ·) f (hex [0, 1, 0, 0])) = false ∧
    frameValid (List.zipWith (· ^^^ ·) f (hex [0, 1, 0, 1])) = true := by decide

/-- EmittedFramesDecode: both destinations. -/
theorem witness_emitted :
    (take (.rxChunk f) idle).map (fun t => t.history.drop idle.history.length) = some [.unsol f] ∧
    awaiting.cstate = .awaiting ∧ (take (.rxChunk f) awaiting).map (fun t => (t.cstate, t.resp)) = some (.fulfilled, some f) ∧
    idle.params.inRange = true ∧ f.length ≤ idle.params.maxFrameLen ∧ answer (.decode f) idle = some (0, hex [0x41]) := by decide

/-- CollectReturnsTheOutcome and TimeoutEndsTheExchange: a state for each clause, and an operand that is not empty (CO-19). -/
theorem witness_ends_of_exchange :
    writing.txbusy = true ∧ [idle, awaiting, wfailed, fulfilled].all (fun s => !s.txbusy) = true ∧
    fulfilled.resp = some f ∧ f.length ≤ 65535 ∧ answer (.collect (hex [0x00])) idle = some (1, []) ∧
    answer (.timeout (hex [0x00])) writing = some (1, []) := by decide

/-- FulfilledWithoutResponseStops. -/
theorem witness_respAbsent :
    faultOf (exec (.collect []) { fulfilled with resp := none }) = some .respAbsent ∧
    faultOf (exec (.timeout []) { fulfilled with resp := none }) = some .respAbsent := by decide

/-- CstateChangesOnlyByItsTable and SingleFlight: one step for each row. -/
theorem witness_transitions :
    [idle, writing, awaiting, fulfilled, wfailed].all busyInExchange = true ∧
    (take (.exchStart f) idle).map State.cstate = some .awaiting ∧ (take (.rxChunk f) awaiting).map State.cstate = some .fulfilled ∧
    (take (.txDoneFail []) writing).map State.cstate = some .wfailed ∧ (take (.timeout []) awaiting).map State.cstate = some .idle ∧
    (take (.collect []) fulfilled).map State.cstate = some .idle ∧ (take (.timeout []) wfailed).map State.cstate = some .idle ∧
    f.length ≤ writing.params.maxFrameLen := by decide

/-- OperandShapeChecksComeFirst: one byte where none may be, the lengths just over the bounds, and the operands that are no level. -/
theorem witness_shapes :
    [Instr.collect (hex [0]), .timeout (hex [0]), .readStatus (hex [0]), .clearOvf (hex [0])].all
      (fun i => decide (take i writing = some (answered .invalidArgument [] writing))) = true ∧
    answer (.encode (hex [1, 2, 3])) short = some (1, []) ∧ answer (.decode (hex [5, 4, 3, 2, 1, 0])) short = some (1, []) ∧
    answer (.exchStart (hex [5, 4, 3, 2, 1, 0])) short = some (1, []) ∧
    [hex [], hex [2], hex [0, 1]].all (fun d => decide (take (.linkState d) idle = some idle)) = true := by decide

/-- RespReadyMeansCollectIsFinal: both states in which the level is 1, and the one in which TXBUSY holds it back. -/
theorem witness_respReady :
    respReady fulfilled = true ∧ respReady wfailed = true ∧ respReady { fulfilled with txbusy := true } = false ∧
    respMatches fulfilled = true ∧ respMatches wfailed = true := by decide

/-- EveryHostOperationReturnsOneResult and ErrorsChangeOnlyWhatTheTableSays: an error, a `TimedOut`, a Transport event. -/
theorem witness_results :
    (Instr.collect []).port = .host ∧ take (.collect []) idle = some (answered .noExchange [] idle) ∧
    (take (.timeout []) awaiting).map State.results = some [{ rc := .timedOut, rlen := 0#16, rdata := [] }] ∧
    (Instr.rxFault []).port = .transport ∧ (take (.rxFault []) idle).map State.results = some [] := by decide

/-- FlagsChangeOnlyByTheirOperations: a change of each flag and of the buffer. -/
theorem witness_flags :
    (take (.exchStart f) idle).map State.txbusy = some true ∧ (take (.txDoneOk []) writing).map State.txbusy = some false ∧
    (take (.linkState (hex [1])) State.reset).map State.linkOpen = some true ∧
    (take (.rxChunk (hex [0x44])) { cap4 with rxbuf := hex [0x05, 0x41, 0x42, 0x43] }).map State.ovf = some true ∧
    (take (.clearOvf []) { cap4 with ovf := true }).map State.ovf = some false ∧
    (take (.rxChunk (hex [0x05])) idle).map State.rxbuf = some (hex [0x05]) := by decide

/-- InvariantIsKeptByEveryStep, OutputsAreNeverRetracted, EveryWholeTransactionCompletes: states with the invariant, and a step. -/
theorem witness_invariant :
    [State.reset, idle, writing, awaiting, fulfilled, wfailed, cap4, short].all invariant = true ∧
    nextOf (step { fulfilled with offers := [.host (hex [0x05, 0x00, 0x00])] }) = some (answered .ok f idle) ∧
    invariant { fulfilled with resp := none } = false ∧ invariant { idle with rxbuf := hex [0x41] } = false := by decide

/-- InstancesShareNothing: the second of two instances takes a step; one instance is the least number (R8). -/
theorem witness_instances :
    (System.step 1 { instances := [idle, { idle with offers := [.reset] }], atLeastOne := by decide }).isSome = true ∧
    (System.reset SystemParams.reference (by decide)).numInstances = 1 ∧
    SystemParams.inRange { numInstances := 0, ofEach := Params.reference } = false := by decide

/-- The world of an outcome. -/
def worldOf : Host.Outcome World Fault Refusal → Option World
  | .next w => some w
  | .fault _ => none
  | .refused _ => none

/-- WorldKeepsItsBooks: a write, its answer, an unsolicited frame handed over. -/
theorem witness_world :
    (World.mk idle [] [] []).booksKept = true ∧
    (worldOf ((World.mk idle [] [] []).act (.host (hex [0x04, 0x00, 0x04, 0x05, 0x41, 0x04, 0x40])))).map World.unanswered = some [f] ∧
    (World.mk writing [f] [] []).booksKept = true ∧ (World.mk writing [f] [] []).dutyMet (.txDone true) = true ∧
    (World.mk idle [] [] []).dutyMet (.txDone false) = false ∧
    (worldOf ((World.mk writing [f] [] []).act (.txDone true))).map World.unanswered = some [] ∧
    (worldOf ((World.mk idle [] [] []).act (.rxChunk f))).map World.handed = some [f] ∧
    (World.mk { idle with history := [.unsol f] } [] [f] []).booksKept = true := by decide

/-- ObserverStepAcceptsOneFrame: nothing handed, one frame handed, and another agent's step. -/
theorem witness_observer :
    worldOf ((World.mk idle [] [] [f]).act .accept) = some (World.mk idle [] [] [f]) ∧
    worldOf ((World.mk idle [] [f] []).act .accept) = some (World.mk idle [] [] [f]) ∧
    Action.agent (.rxChunk f) ≠ .observer ∧
    (worldOf ((World.mk idle [] [f] []).act (.rxChunk f))).map World.handed = some [f, f] := by decide

/-- FixedWidthFields: the least and the largest number that fit, and the first on each side that do not. -/
theorem witness_fields :
    dec 0 2 = .ok (hex [0x30, 0x30]) ∧ dec 99 2 = .ok (hex [0x39, 0x39]) ∧ dec (-1) 2 = .error .invalidArgument ∧
    dec 100 2 = .error .invalidArgument ∧ hex4 0 = .ok (hex [0x30, 0x30, 0x30, 0x30]) ∧
    hex4 0xFFFF = .ok (hex [0x46, 0x46, 0x46, 0x46]) ∧ hex4 (-1) = .error .invalidArgument ∧
    hex4 0x10000 = .error .invalidArgument := by
  exact ⟨rfl, rfl, rfl, rfl, rfl, rfl, rfl, rfl⟩

/-- BuildersAddNoEndByte and StationIsPaddedNeverTruncated: stations of 0, 1 and 2 characters, and a payload that is built. -/
theorem witness_stations :
    trim (hex [0x20, 0x09]) = [] ∧ trim (hex [0x20, 0x31]) = hex [0x31] ∧ 2 ≤ (trim (hex [0x31, 0x32, 0x0D])).length ∧
    0x04#8 ∉ mw100 ∧ 0x04#8 ∉ defaultStation ∧
    buildRead [mw100] defaultStation =
      .ok (hex [0x30, 0x30, 0x52, 0x53, 0x53, 0x30, 0x31, 0x30, 0x36, 0x25, 0x4D, 0x57, 0x31, 0x30, 0x30]) := by
  exact ⟨rfl, rfl, by decide, by decide, by decide, rfl⟩

/-- ExchangeWaitReturnsItsOutcome: each way out of waiting, and each outcome of the two transactions. -/
theorem witness_exchange_wait :
    [awaiting, wfailed, fulfilled].all (fun s => !s.txbusy) = true ∧ fulfilled.resp = some f ∧
    respReady awaiting = false ∧ phaseOf (exchangeStep false .waiting awaiting) = some .waiting ∧
    phaseOf (exchangeStep true .waiting awaiting) = some .timingOut ∧ phaseOf (exchangeStep true .waiting wfailed) = some .collecting ∧
    phaseOf (exchangeStep true .collecting awaiting) = some .waiting ∧
    phaseOf (exchangeStep true .timingOut awaiting) = some (.finished { rc := .timedOut, rlen := 0#16, rdata := [] }) ∧
    phaseOf (exchangeStep false .collecting wfailed) = some (.finished { rc := .transportWriteError, rlen := 0#16, rdata := [] }) ∧
    phaseOf (exchangeStep true .timingOut fulfilled) = some (.finished { rc := .ok, rlen := 4#16, rdata := f }) := by decide

end Sys2Proof.Tests
end

section
/-! PROOF. Every step keeps the invariant (O49; 10_state.md R23, R26, R29, R36). The invariant has two halves: the buffer half
(parameters, buffer, OVF) and the exchange half (CSTATE, RESP, TXBUSY). `BufferOk` and `ExchangeOk` say them over the bare elements, and
`invariant_iff` ties them to the model's `invariant`. RX_CHUNK keeps each half by its own induction over the passes of `Process()`, and
every other operation writes at most one of them. -/

namespace Sys2Proof.Machine

/-! ### The two halves of the invariant -/

/-- The buffer half: R8's ranges, the buffer at rest and within the capacity (R23), no overflow with `INF` (R29). -/
structure BufferOk (p : Params) (buf : Bytes) (ovf : Bool) : Prop where
  ranges : p.inRange = true
  rest : atRest buf = true
  fits : overCap p buf.length = false
  infOvf : p.rxBufCap = .inf → ovf = false

/-- The exchange half: the four shapes that R26 and R36 (a), (c), (d) leave to `CSTATE`, `RESP` and `TXBUSY`. -/
inductive ExchangeOk : CState → Option Bytes → Bool → Prop where
  | idle : ExchangeOk .idle none false
  | awaiting (busy : Bool) : ExchangeOk .awaiting none busy
  | fulfilled {c : Bytes} (busy : Bool) (h : wholeFrame c = true) : ExchangeOk .fulfilled (some c) busy
  | wfailed : ExchangeOk .wfailed none false

theorem capRespected_iff (s : State) :
    capRespected s = true ↔ overCap s.params s.rxbuf.length = false ∧ (s.params.rxBufCap = .inf → s.ovf = false) := by
  cases hp : s.params.rxBufCap <;> simp [capRespected, overCap, hp]

theorem respMatches_iff (s : State) : respMatches s = true ↔ (s.resp.isSome = true ↔ s.cstate = .fulfilled) := by
  rw [respMatches, beq_iff_eq, Bool.eq_iff_iff, beq_iff_eq]

theorem busyInExchange_iff (s : State) :
    busyInExchange s = true ↔ (s.txbusy = true → s.cstate = .awaiting ∨ s.cstate = .fulfilled) := by
  cases hb : s.txbusy <;> simp [busyInExchange, hb]

theorem exchangeOk_iff (s : State) :
    ExchangeOk s.cstate s.resp s.txbusy ↔ respMatches s = true ∧ respWhole s = true ∧ busyInExchange s = true := by
  rw [respMatches_iff, busyInExchange_iff, respWhole]
  generalize s.cstate = c, s.resp = r, s.txbusy = b
  constructor
  · rintro (_ | _ | ⟨_, h⟩ | _) <;> simp [*]
  · rintro ⟨hm, hw, hb⟩
    cases c with
    | idle =>
      obtain ⟨rfl, rfl⟩ : r = none ∧ b = false := by simpa using And.intro hm hb
      exact .idle
    | awaiting =>
      obtain rfl : r = none := by simpa using hm
      exact .awaiting b
    | fulfilled =>
      obtain ⟨c, rfl⟩ : ∃ c, r = some c := by simpa [Option.isSome_iff_exists] using hm
      exact .fulfilled b hw
    | wfailed =>
      obtain ⟨rfl, rfl⟩ : r = none ∧ b = false := by simpa using And.intro hm hb
      exact .wfailed

/-- The invariant is its two halves. -/
theorem invariant_iff (s : State) :
    invariant s = true ↔ BufferOk s.params s.rxbuf s.ovf ∧ ExchangeOk s.cstate s.resp s.txbusy := by
  simp only [invariant, Bool.and_eq_true, capRespected_iff, exchangeOk_iff]
  constructor
  · rintro ⟨⟨⟨⟨⟨hp, hr⟩, hf, hi⟩, hm⟩, hw⟩, hb⟩
    exact ⟨⟨hp, hr, hf, hi⟩, hm, hw, hb⟩
  · rintro ⟨⟨hp, hr, hf, hi⟩, hm, hw, hb⟩
    exact ⟨⟨⟨⟨⟨hp, hr⟩, hf, hi⟩, hm⟩, hw⟩, hb⟩

/-! ### What the invariant does not read -/

@[simp] theorem invariant_respond (rc : RC) (data : Bytes) (s : State) : invariant (s.respond rc data) = invariant s := rfl

@[simp] theorem invariant_raise (rc : RC) (s : State) : invariant (s.raise rc) = invariant s := rfl

@[simp] theorem invariant_emit (e : Event) (s : State) : invariant (s.emit e) = invariant s := rfl

@[simp] theorem invariant_setOffers (o : List Offer) (s : State) : invariant (s.setOffers o) = invariant s := rfl

@[simp] theorem invariant_setLinkOpen (b : Bool) (s : State) : invariant (s.setLinkOpen b) = invariant s := rfl

/-! ### What one pass of `Process()` leaves and emits (41_reassembler.md R132 to R136) -/

/-- R23 (b), (c): a START with no END before the last byte. -/
theorem atRest_start {p : Bytes} (h : endByte ∉ p.dropLast) : atRest (startByte :: p) = true := by
  rcases List.eq_nil_or_concat p with rfl | ⟨q, x, rfl⟩
  · rfl
  · have hq : endByte ∉ q := by simpa using h
    by_cases hx : x = endByte
    · have hlast := firstIndex_append_cons q [] endByte hq
      simp [atRest, firstIndex_cons_one, hx, hlast]
    · have hnone : firstIndex (q ++ [x]) endByte 0 = none :=
        (firstIndex_eq_none _ _ _).2 (by simpa [hq] using Ne.symm hx)
      simp [atRest, firstIndex_cons_one, hnone]

/-- A frame whose payload holds no END is whole. -/
theorem wholeFrame_frameOf {p : Bytes} (h : endByte ∉ p) : wholeFrame (frameOf p) = true := by
  have hslice : slice (frameOf p) 1 ((frameOf p).length - 3) = p := by
    simp [slice, frameOf_eq]
  simp only [wholeFrame, hslice]
  simpa using h

/-- Where a pass stops, the buffer is at rest and no longer than it was. -/
theorem pass_stop_atRest {buf b : Bytes} (h : pass buf = .stop b) : atRest b = true ∧ b.length ≤ buf.length := by
  rcases seen buf with hs | ⟨z, p, hz, hp, rfl⟩ | ⟨z, p, x, r, hz, hp, rfl⟩
  · rw [pass_of_no_start hs] at h
    cases h
    exact ⟨rfl, by simp⟩
  · rw [pass_of_noise _ hz, passFromStart_of_incomplete hp] at h
    cases h
    exact ⟨atRest_start hp, by simp⟩
  · rw [pass_of_noise _ hz, passFromStart_of_candidate x r hp] at h
    split at h <;> cases h

/-- What a pass emits is a whole frame. -/
theorem pass_emit_wholeFrame {buf f r : Bytes} (h : pass buf = .emit f r) : wholeFrame f = true := by
  rcases seen buf with hs | ⟨z, p, hz, hp, rfl⟩ | ⟨z, p, x, t, hz, hp, rfl⟩
  · rw [pass_of_no_start hs] at h; cases h
  · rw [pass_of_noise _ hz, passFromStart_of_incomplete hp] at h; cases h
  · rw [pass_of_noise _ hz, passFromStart_of_candidate x t hp] at h
    split at h <;> cases h
    exact wholeFrame_frameOf hp

/-! ### `Process()` -/

/-- `Process()` leaves the buffer at rest and no longer than it was, whatever the buffer was (R23). -/
theorem process_atRest (s : State) :
    atRest (process s).rxbuf = true ∧ (process s).rxbuf.length ≤ s.rxbuf.length := by
  induction s using process_induction with
  | stop s b h => rw [process_eq, h]; exact pass_stop_atRest h
  | emit s f r h ih =>
    have hlen := pass_emit_length h
    simp only [deliver_rxbuf, setRxbuf_rxbuf] at ih
    rw [process_eq, h]
    exact ⟨ih.1, by dsimp only; omega⟩
  | drop s r h ih =>
    have hlen := pass_drop_length h
    simp only [setRxbuf_rxbuf] at ih
    rw [process_eq, h]
    exact ⟨ih.1, by dsimp only; omega⟩

/-- A delivered whole frame moves AWAITING to FULFILLED with that frame, and touches no other exchange (R177). -/
theorem deliver_keeps_exchangeOk {s : State} {c : Bytes} (hc : wholeFrame c = true)
    (h : ExchangeOk s.cstate s.resp s.txbusy) :
    ExchangeOk (s.deliver c).cstate (s.deliver c).resp (s.deliver c).txbusy := by
  rcases deliver_cases c s with ⟨-, ht⟩ | ⟨-, ht⟩ <;> rw [ht]
  · exact .fulfilled _ hc
  · exact h

theorem process_keeps_exchangeOk (s : State) (h : ExchangeOk s.cstate s.resp s.txbusy) :
    ExchangeOk (process s).cstate (process s).resp (process s).txbusy := by
  induction s using process_induction with
  | stop s b hp => rw [process_eq, hp]; exact h
  | emit s f r hp ih => rw [process_eq, hp]; exact ih (deliver_keeps_exchangeOk (pass_emit_wholeFrame hp) h)
  | drop s r hp ih => rw [process_eq, hp]; exact ih h

/-! ### RX_CHUNK -/

/-- A shorter buffer fits where a longer one does. -/
theorem overCap_mono {p : Params} {m k : Nat} (hm : m ≤ k) (hk : overCap p k = false) : overCap p m = false := by
  cases hp : p.rxBufCap with
  | inf => simp [overCap, hp]
  | finite n =>
    simp only [overCap, hp, decide_eq_false_iff_not, not_lt] at hk ⊢
    exact hm.trans hk

/-- `INF` is never exceeded (R139). -/
theorem overCap_finite {p : Params} {n : Nat} (h : overCap p n = true) : p.rxBufCap ≠ .inf := by
  intro hp
  simp [overCap, hp] at h

/-- One received byte keeps the buffer half: it adds at most one byte, and the overflow drop, which needs a finite capacity, takes one
away (R130, R139). -/
theorem rxByte_keeps_bufferOk {s : State} (b : Byte) (h : BufferOk s.params s.rxbuf s.ovf) :
    BufferOk (rxByte s b).params (rxByte s b).rxbuf (rxByte s b).ovf := by
  obtain ⟨-, -, hovf, hpar, -⟩ := process_frame (s.setRxbuf (s.rxbuf ++ [b]))
  obtain ⟨hrest, hlen⟩ := process_atRest (s.setRxbuf (s.rxbuf ++ [b]))
  rcases rxByte_cases s b with ⟨hc, hr⟩ | ⟨hc, hr⟩ <;> rw [hr] <;>
    generalize process (s.setRxbuf (s.rxbuf ++ [b])) = t at *
  · exact ⟨hpar ▸ h.ranges, hrest, hc, fun hi => hovf.trans (h.infOvf (hpar ▸ hi))⟩
  · obtain ⟨-, -, -, hpar', -⟩ := process_frame ((t.setOvf true).setRxbuf (t.rxbuf.drop 1))
    obtain ⟨hrest', hlen'⟩ := process_atRest ((t.setOvf true).setRxbuf (t.rxbuf.drop 1))
    simp only [setRxbuf_rxbuf, setRxbuf_params, setOvf_params, List.length_drop, List.length_append,
      List.length_singleton] at hlen hlen' hpar hpar'
    have hfin : s.params.rxBufCap ≠ .inf := hpar ▸ overCap_finite hc
    rw [overflowDrop]
    generalize process ((t.setOvf true).setRxbuf (t.rxbuf.drop 1)) = u at *
    rw [hpar', hpar]
    exact ⟨h.ranges, hrest', overCap_mono (by omega) h.fits, fun hi => absurd hi hfin⟩

theorem rxByte_keeps_invariant {s : State} (b : Byte) (h : invariant s = true) : invariant (rxByte s b) = true := by
  obtain ⟨hbuf, hex⟩ := (invariant_iff s).1 h
  refine (invariant_iff _).2 ⟨rxByte_keeps_bufferOk b hbuf, ?_⟩
  have hfirst := process_keeps_exchangeOk (s.setRxbuf (s.rxbuf ++ [b])) hex
  rcases rxByte_cases s b with ⟨-, hr⟩ | ⟨-, hr⟩ <;> rw [hr]
  · exact hfirst
  · exact process_keeps_exchangeOk _ hfirst

theorem rxBytes_keep_invariant (data : Bytes) {s : State} (h : invariant s = true) :
    invariant (data.foldl rxByte s) = true := by
  induction data generalizing s with
  | nil => exact h
  | cons b d ih => exact ih (rxByte_keeps_invariant b h)

/-! ### The operations that write the exchange (42_correlator.md R171 to R180) -/

/-- The buffer half carries over where no element of it is written. -/
theorem invariant_of_exchangeOk {s t : State} (h : invariant s = true) (hp : t.params = s.params) (hb : t.rxbuf = s.rxbuf)
    (ho : t.ovf = s.ovf) (he : ExchangeOk t.cstate t.resp t.txbusy) : invariant t = true := by
  refine (invariant_iff t).2 ⟨?_, he⟩
  rw [hp, hb, ho]
  exact ((invariant_iff s).1 h).1

/-- Outside FULFILLED there is no response to lose (R36 (a)). -/
theorem resp_eq_none {s : State} (h : invariant s = true) (hc : s.cstate ≠ .fulfilled) : s.resp = none := by
  obtain ⟨-, hex⟩ := (invariant_iff s).1 h
  generalize s.cstate = c, s.resp = r, s.txbusy = b at *
  cases hex with
  | fulfilled => exact absurd rfl hc
  | idle | awaiting | wfailed => rfl

/-- The marker is set before the write (R171). -/
theorem invariant_startExchange {s : State} (h : invariant s = true) (hc : s.cstate = .idle) :
    invariant ((s.setCstate .awaiting).setTxbusy true) = true := by
  have hr := resp_eq_none h (by simp [hc])
  refine invariant_of_exchangeOk h rfl rfl rfl ?_
  simpa [hr] using ExchangeOk.awaiting true

/-- An exchange that ends without a response, its write returned: WFAILED, or AWAITING given up (R179, R180). -/
theorem invariant_endExchange {s : State} (h : invariant s = true) (hb : s.txbusy = false) (hc : s.cstate ≠ .fulfilled) :
    invariant (s.setCstate .idle) = true := by
  have hr := resp_eq_none h hc
  refine invariant_of_exchangeOk h rfl rfl rfl ?_
  simpa [hr, hb] using ExchangeOk.idle

/-- An exchange whose response is taken, its write returned (R179, R180). -/
theorem invariant_takeResponse {s : State} (h : invariant s = true) (hb : s.txbusy = false) :
    invariant ((s.setResp none).setCstate .idle) = true := by
  refine invariant_of_exchangeOk h rfl rfl rfl ?_
  simpa [hb] using ExchangeOk.idle

/-- A write that returned (R174). -/
theorem invariant_writeReturned {s : State} (h : invariant s = true) : invariant (s.setTxbusy false) = true := by
  refine invariant_of_exchangeOk h rfl rfl rfl ?_
  obtain ⟨-, hex⟩ := (invariant_iff s).1 h
  simp only [setTxbusy_cstate, setTxbusy_resp, setTxbusy_txbusy]
  generalize s.cstate = c, s.resp = r, s.txbusy = b at *
  cases hex with
  | idle => exact .idle
  | awaiting => exact .awaiting false
  | fulfilled _ hw => exact .fulfilled false hw
  | wfailed => exact .wfailed

/-- A write that failed: WFAILED, and a frame already delivered is discarded (R175). -/
theorem invariant_writeFailed {s : State} (h : invariant s = true) :
    invariant (((s.setTxbusy false).setResp none).setCstate .wfailed) = true :=
  invariant_of_exchangeOk h rfl rfl rfl .wfailed

theorem execExchStart_keeps_invariant {d : Bytes} {s t : State} (hs : invariant s = true) (h : execExchStart d s = .next t) :
    invariant t = true := by
  rcases execExchStart_next h with ⟨-, rfl⟩ | ⟨-, -, rfl⟩ | ⟨-, -, -, -, rfl⟩ | ⟨-, hc, -, -, rfl⟩
  · simpa using hs
  · simpa using hs
  · simpa using hs
  · simpa using invariant_startExchange hs hc

theorem execCollect_keeps_invariant {d : Bytes} {s t : State} (hs : invariant s = true) (h : execCollect d s = .next t) :
    invariant t = true := by
  rcases execCollect_next h with ⟨-, rfl⟩ | ⟨-, -, rfl⟩ | ⟨-, -, -, rfl⟩ | ⟨-, -, -, rfl⟩ | ⟨-, hb, -, r, -, rfl⟩ |
    ⟨-, hb, hc, rfl⟩
  · simpa using hs
  · simpa using hs
  · simpa using hs
  · simpa using hs
  · simpa using invariant_takeResponse hs hb
  · simpa using invariant_endExchange hs hb (by simp [hc])

theorem execTimeout_keeps_invariant {d : Bytes} {s t : State} (hs : invariant s = true) (h : execTimeout d s = .next t) :
    invariant t = true := by
  rcases execTimeout_next h with ⟨-, rfl⟩ | ⟨-, -, rfl⟩ | ⟨-, -, -, rfl⟩ | ⟨-, hb, hc, rfl⟩ | ⟨-, hb, -, r, -, rfl⟩ |
    ⟨-, hb, hc, rfl⟩
  · simpa using hs
  · simpa using hs
  · simpa using hs
  · simpa using invariant_endExchange hs hb (by simp [hc])
  · simpa using invariant_takeResponse hs hb
  · simpa using invariant_endExchange hs hb (by simp [hc])

/-! ### Every operation, every offer, every step -/

/-- The overflow flag may always be cleared (R184). -/
theorem invariant_clearOvf {s : State} (h : invariant s = true) : invariant (s.setOvf false) = true := by
  obtain ⟨hbuf, hex⟩ := (invariant_iff s).1 h
  exact (invariant_iff _).2 ⟨⟨hbuf.ranges, hbuf.rest, hbuf.fits, fun _ => rfl⟩, hex⟩

/-- Reset needs nothing of the state but its parameters' ranges (70_reset_and_hazards.md R280). -/
theorem invariant_resetElements {s : State} (h : s.params.inRange = true) : invariant s.resetElements = true := by
  have hfits : overCap s.params 0 = false := by
    cases hp : s.params.rxBufCap <;> simp [overCap, hp]
  exact (invariant_iff _).2 ⟨⟨h, rfl, hfits, fun _ => rfl⟩, .idle⟩

theorem exec_keeps_invariant {i : Instr} {s t : State} (hs : invariant s = true) (h : exec i s = .next t) :
    invariant t = true := by
  cases i with
  | bcc d => obtain rfl := execBcc_next h; simpa using hs
  | encode d => rcases execEncode_next h with ⟨-, rfl⟩ | ⟨-, rfl⟩ <;> simpa using hs
  | decode d => rcases execDecode_next h with ⟨-, _, -, rfl⟩ | ⟨-, _, -, rfl⟩ | ⟨-, rfl⟩ <;> simpa using hs
  | exchStart d => exact execExchStart_keeps_invariant hs h
  | collect d => exact execCollect_keeps_invariant hs h
  | timeout d => exact execTimeout_keeps_invariant hs h
  | readStatus d => rcases execReadStatus_next h with ⟨-, rfl⟩ | ⟨-, rfl⟩ <;> simpa using hs
  | clearOvf d =>
    rcases execClearOvf_next h with ⟨-, rfl⟩ | ⟨-, rfl⟩
    · simpa using invariant_clearOvf hs
    · simpa using hs
  | rxChunk d => obtain rfl := execRxChunk_next h; exact rxBytes_keep_invariant d hs
  | rxFault d => cases h; exact hs
  | txDoneOk d =>
    rcases execTxDoneOk_next (d := d) h with ⟨-, rfl⟩ | ⟨-, rfl⟩
    · exact invariant_writeReturned hs
    · exact hs
  | txDoneFail d =>
    rcases execTxDoneFail_next (d := d) h with ⟨-, rfl⟩ | ⟨-, rfl⟩
    · exact invariant_writeFailed hs
    · exact hs
  | linkState d => rcases execLinkState_next h with ⟨_, -, rfl⟩ | ⟨-, rfl⟩ <;> simpa using hs

theorem takeOffer_keeps_invariant {o : Offer} {s t : State} (hs : invariant s = true) (h : takeOffer o s = .next t) :
    invariant t = true := by
  rcases takeOffer_next h with ⟨_, _, -, -, hi⟩ | ⟨_, -, -, rfl⟩ | ⟨_, _, -, -, hi⟩ | ⟨_, -, -, rfl⟩ | ⟨-, rfl⟩
  · exact exec_keeps_invariant hs hi
  · simpa using hs
  · exact exec_keeps_invariant hs hi
  · exact hs
  · exact invariant_resetElements ((invariant_iff s).1 hs).1.ranges

/-- Settles O49: a step takes nothing, or one offer, and every offer keeps both halves of the invariant. -/
theorem invariantIsKeptByEveryStep : Obligations.InvariantIsKeptByEveryStep := by
  intro s t hs h
  rcases step_next h with ⟨-, rfl⟩ | ⟨o, rest, -, ho⟩
  · exact hs
  · exact takeOffer_keeps_invariant (s := s.setOffers rest) (by simpa using hs) ho

end Sys2Proof.Machine
end

section
/-! PROOF. The encodings (30_encoding.md): the codes that no port's map holds (O3; R82), the layout of a frame and its parity (O9; R70
to R72), and the operand-shape checks (O42; R83). Each part first says once what the model's own function does, as an equation or an
`↔`; the statement then reads it off. -/

namespace Sys2Proof

/-! ### Reserved codes (R82) -/

/-- The Host codes outside R80's table. -/
theorem hostOperation_eq_none (opc : Byte) (data : Bytes) :
    hostOperation opc data = none ↔ opc.toNat = 0x00 ∨ 0x09 ≤ opc.toNat := by
  unfold hostOperation
  split
  case h_9 =>
    simp only [imp_false, true_iff] at *
    bv_omega
  all_goals simp

/-- The Transport codes outside R81's table. -/
theorem transportOperation_eq_none (evt : Byte) (data : Bytes) :
    transportOperation evt data = none ↔ evt.toNat ≤ 0x80 ∨ 0x86 ≤ evt.toNat := by
  unfold transportOperation
  split
  case h_6 =>
    simp only [imp_false, true_iff] at *
    bv_omega
  all_goals simp

theorem decode_reserved {p : Port} {opc : Byte} {data : Bytes} (hlen : data.length ≤ 65535)
    (h : operation p opc data = none) : decode p (opc :: (be16 data.length ++ data)) = .reserved := by
  rw [decode_whole p opc data hlen, h]

end Sys2Proof

namespace Sys2Proof.Machine

/-! ### An empty result in the obligations' own words -/

theorem raise_eq_answered (rc : RC) (s : State) : s.raise rc = answered rc [] s :=
  raise_eq rc s

/-! ### A step at a reserved code (R82) -/

/-- A step takes the first offer, in the state without it (20_memory.md R56). -/
theorem step_offer (o : Offer) (rest : List Offer) (s : State) :
    step { s with offers := o :: rest } = takeOffer o { s with offers := rest } := rfl

theorem takeOffer_host_reserved {txn : Bytes} (s : State) (h : decode .host txn = .reserved) :
    takeOffer (.host txn) s = .next (answered .illegalCommand [] s) := by
  simp only [takeOffer, takeHost, h, raise_eq_answered]

theorem takeOffer_transport_reserved {evt : Bytes} (s : State) (h : decode .transport evt = .reserved) :
    takeOffer (.transport evt) s = .next s := by
  simp only [takeOffer, takeTransport, h]

/-- Settles O3: the code is outside its port's map, so the whole transaction decodes as reserved, and the port answers or ignores it. -/
theorem reservedCodesChangeNoState : Obligations.ReservedCodesChangeNoState := by
  intro s code data rest hlen
  refine ⟨fun hcode => ?_, fun hcode => ?_⟩ <;> rw [step_offer]
  · have hmap : operation .host code data = none := (hostOperation_eq_none code data).2 (by omega)
    exact takeOffer_host_reserved _ (decode_reserved hlen hmap)
  · have hmap : operation .transport code data = none := (transportOperation_eq_none code data).2 hcode
    exact takeOffer_transport_reserved _ (decode_reserved hlen hmap)

/-! ### The frame (R70 to R72) -/

/-- What a frame's checksum covers, written out (R70). -/
theorem frameBody_eq (p : Bytes) : frameBody p = [0x05#8] ++ p ++ [0x04#8] := rfl

/-- R71: START and END together contribute 0x01. -/
theorem xorfold_frameBody (p : Bytes) : xorfold (frameBody p) = 0x01#8 ^^^ xorfold p :=
  calc xorfold (frameBody p)
    _ = 0x05#8 ^^^ (xorfold p ^^^ 0x04#8) := by simp [frameBody, startByte, endByte]
    _ = (0x05#8 ^^^ 0x04#8) ^^^ xorfold p := by rw [BitVec.xor_comm (xorfold p), BitVec.xor_assoc]
    _ = 0x01#8 ^^^ xorfold p := rfl

/-- R72: a whole frame folds to zero. -/
@[simp] theorem xorfold_frameOf (p : Bytes) : xorfold (frameOf p) = 0x00#8 :=
  (xorfold_append_singleton_eq_zero _ _).2 rfl

/-- Settles O9: the layout is `frameOf`'s definition over `frameBody_eq`; both of R72's tests are one `↔` for every candidate. -/
theorem frameLayoutAndParity : Obligations.FrameLayoutAndParity := by
  refine ⟨fun p => ?_, fun c b => (xorfold_append_singleton_eq_zero c b).symm⟩
  rw [← frameBody_eq]
  exact ⟨rfl, length_frameOf p, xorfold_frameBody p, xorfold_frameOf p⟩

/-! ### The operand-shape checks (R83) -/

/-- A failed shape check is the answer, whatever the operation behind it would do (R83, 60_exceptions.md R253). -/
theorem withShape_of_not_ok {sh : Shape} {data : Bytes} {s : State} (k : StepOutcome)
    (h : ¬ shapeOk sh s.params data = true) : withShape sh data s k = .next (answered .invalidArgument [] s) := by
  rw [withShape_of_bad k (Bool.eq_false_iff.2 h), raise_eq_answered]

/-- The operands that are no level: not one byte, or a byte other than 0x00 and 0x01 (R83). -/
theorem linkLevel_eq_none (d : Bytes) :
    linkLevel d = none ↔ d.length ≠ 1 ∨ ∃ v, d = [v] ∧ v ≠ 0x00#8 ∧ v ≠ 0x01#8 := by
  match d with
  | [] => simp [linkLevel]
  | [v] =>
    by_cases h0 : v = 0x00#8
    · simp [linkLevel, h0]
    · by_cases h1 : v = 0x01#8 <;> simp [linkLevel, h0, h1]
  | _ :: _ :: _ => simp [linkLevel]

theorem execLinkState_of_no_level {d : Bytes} (s : State) (h : linkLevel d = none) : execLinkState d s = .next s := by
  simp only [execLinkState, h]

/-- Settles O42: every operation with a shape makes its check before it reads the state, and the three events that ignore their operand
do not mention it. -/
theorem operandShapeChecksComeFirst : Obligations.OperandShapeChecksComeFirst := by
  refine ⟨fun s d hd => ?empty, fun s d hd => ?payload, fun s d hd => ?frame, fun s d hd => ?level,
    fun s d => ⟨rfl, rfl, rfl⟩⟩
  case empty =>
    have hbad : ¬ shapeOk .empty s.params d = true := mt (shapeOk_empty s.params d).1 hd
    exact ⟨withShape_of_not_ok _ hbad, withShape_of_not_ok _ hbad, withShape_of_not_ok _ hbad, withShape_of_not_ok _ hbad⟩
  case payload =>
    have hbad : ¬ shapeOk .payload s.params d = true := mt (shapeOk_payload s.params d).1 hd.not_ge
    exact withShape_of_not_ok _ hbad
  case frame =>
    have hbad : ¬ shapeOk .frame s.params d = true := mt (shapeOk_frame s.params d).1 hd.not_ge
    exact ⟨withShape_of_not_ok _ hbad, withShape_of_not_ok _ hbad⟩
  case level => exact execLinkState_of_no_level s ((linkLevel_eq_none d).2 hd)

end Sys2Proof.Machine
end

section
/-! PROOF. The frame codec (40_codec.md): the laws of `xorfold` (O8; R100), BCC and ENCODE (O10, O11; R101, R102), DECODE (O12; R103,
R104), and DECODE of ENCODE (O13, O14; R107, R108). `payloadOf` gets one equation per branch, and each operation one equation per
answer; the round trips run on the single equation for a frame whose payload region holds an END. -/

namespace Sys2Proof.Machine

/-! ### The laws of xorfold (R100) -/

/-- The order of the bytes does not matter: two neighbours exchanged leave the fold as it is. -/
theorem xorfold_perm {s t : Bytes} (h : s.Perm t) : xorfold s = xorfold t := by
  induction h with
  | nil => rfl
  | cons b _ ih => rw [xorfold_cons, xorfold_cons, ih]
  | swap a b s =>
    calc xorfold (b :: a :: s)
      _ = (b ^^^ a) ^^^ xorfold s := (BitVec.xor_assoc b a _).symm
      _ = (a ^^^ b) ^^^ xorfold s := by rw [BitVec.xor_comm b a]
      _ = xorfold (a :: b :: s) := BitVec.xor_assoc a b _
  | trans _ _ ih₁ ih₂ => exact ih₁.trans ih₂

/-- Bit `k` of the fold is the parity of column `k`, and no other column enters it: a set bit turns the parity, a clear one leaves it. -/
theorem getLsbD_xorfold (s : Bytes) (k : Nat) :
    (xorfold s).getLsbD k = decide ((s.countP fun b => b.getLsbD k) % 2 = 1) := by
  induction s with
  | nil => simp
  | cons b s ih =>
    rw [xorfold_cons, BitVec.getLsbD_xor, ih, List.countP_cons, Bool.eq_iff_iff]
    cases b.getLsbD k with
    | false => simp
    | true => simp only [Bool.true_xor, if_true, Bool.not_eq_true', decide_eq_false_iff_not, decide_eq_true_eq]; omega

/-- Settles O8: concatenation is `xorfold_append`, a doubled byte cancels, order and columns each by induction. -/
theorem xorfoldIsColumnParity : Obligations.XorfoldIsColumnParity := by
  refine ⟨rfl, xorfold_append, fun x => ?doubled, fun _ _ => xorfold_perm, getLsbD_xorfold⟩
  rw [xorfold_cons, xorfold_cons, xorfold_nil, BitVec.xor_zero, BitVec.xor_self]

/-! ### Results in the obligations' own words (30_encoding.md R76) -/

theorem respond_eq_answered (rc : RC) {data : Bytes} (s : State) (h : data.length ≤ 65535) :
    s.respond rc data = answered rc data s :=
  respond_of_short rc data s h

/-- The result list shows the data of the answer. -/
theorem answered_data_inj {rc : RC} {d e : Bytes} {s : State} (h : answered rc d s = answered rc e s) : d = e := by
  have hresults := congrArg State.results h
  simp only [answered, List.append_cancel_left_eq, List.cons.injEq, Result.mk.injEq] at hresults
  obtain ⟨⟨-, -, hdata⟩, -⟩ := hresults
  exact hdata

/-- R8's range of `MAX_FRAME_LEN`. -/
theorem maxFrameLen_range {p : Params} (h : p.inRange = true) : 3 ≤ p.maxFrameLen ∧ p.maxFrameLen ≤ 65535 := by
  simp only [Params.inRange, Bool.and_eq_true, decide_eq_true_eq] at h
  obtain ⟨⟨-, hlow⟩, hhigh⟩ := h
  exact ⟨hlow, hhigh⟩

/-! ### BCC (R101) -/

theorem exec_bcc (data : Bytes) (s : State) : exec (.bcc data) s = .next (answered .ok [xorfold data] s) :=
  congrArg Host.Outcome.next (respond_eq_answered .ok s (by simp))

/-- Settles O10: the two corner cases are the one equation of BCC at `xorfold_nil` and at R72's `xorfold_frameOf`. -/
theorem bccReturnsTheChecksum : Obligations.BccReturnsTheChecksum := by
  refine ⟨fun s data => ⟨⟨rfl, rfl⟩, exec_bcc data s⟩, fun s => ?noByte, fun s p => ?frame⟩
  case noByte => rw [exec_bcc, xorfold_nil]
  case frame => rw [exec_bcc, xorfold_frameOf]

/-! ### ENCODE (R102) -/

theorem exec_encode_of_fits {p : Bytes} {s : State} (hr : s.params.inRange = true) (h : p.length ≤ s.params.maxFrameLen - 3) :
    exec (.encode p) s = .next (answered .ok (frameOf p) s) := by
  have hrange := maxFrameLen_range hr
  have hlen : (frameOf p).length ≤ 65535 := by rw [length_frameOf]; omega
  calc exec (.encode p) s
    _ = .next (s.respond .ok (frameOf p)) := withShape_of_ok _ ((shapeOk_payload _ _).2 h)
    _ = .next (answered .ok (frameOf p) s) := by rw [respond_eq_answered .ok s hlen]

theorem exec_encode_of_long {p : Bytes} {s : State} (h : s.params.maxFrameLen - 3 < p.length) :
    exec (.encode p) s = .next (answered .invalidArgument [] s) :=
  withShape_of_not_ok _ (mt (shapeOk_payload _ _).1 h.not_ge)

/-- Settles O11: the length bound decides between the two equations of ENCODE. -/
theorem encodeWrapsThePayload : Obligations.EncodeWrapsThePayload := by
  intro s p hr
  refine ⟨⟨rfl, rfl⟩, ?_⟩
  split
  next hlong => exact exec_encode_of_long hlong
  next hfits =>
    rw [← frameBody_eq]
    exact exec_encode_of_fits hr (not_lt.1 hfits)

/-! ### DECODE's extraction, one equation per branch (R103, R104) -/

/-- What stands between the first byte and index `len(p) + 1`. -/
theorem slice_one_cons_append (b : Byte) (p t : Bytes) : slice (b :: (p ++ t)) 1 p.length = p := by
  simp [slice]

theorem payloadOf_of_malformed {f : Bytes} (h : f.length < 3 ∨ f.head? ≠ some startByte) :
    payloadOf f = .error .malformedFrame := by
  rw [payloadOf, if_pos h]

/-- A sequence of three bytes or more that START opens passes the structural check. -/
theorem not_malformed_of_start {t : Bytes} (h : 3 ≤ (startByte :: t).length) :
    ¬ ((startByte :: t).length < 3 ∨ (startByte :: t).head? ≠ some startByte) := by
  rintro (hshort | hopen)
  · omega
  · exact hopen rfl

theorem payloadOf_of_unterminated {t : Bytes} (hlen : 3 ≤ (startByte :: t).length) (ht : endByte ∉ t) :
    payloadOf (startByte :: t) = .error .missingTerminator := by
  have hnone : firstIndex (startByte :: t) endByte 1 = none := (firstIndex_eq_none _ _ _).2 ht
  rw [payloadOf, if_neg (not_malformed_of_start hlen), hnone]

/-- The payload ends at the first END; what follows that END does not enter. -/
theorem payloadOf_of_terminated {p : Bytes} (t : Bytes) (hlen : 3 ≤ (startByte :: (p ++ endByte :: t)).length)
    (hp : endByte ∉ p) : payloadOf (startByte :: (p ++ endByte :: t)) = .ok p := by
  have hfound : firstIndex (startByte :: (p ++ endByte :: t)) endByte 1 = some (p.length + 1) := by
    rw [firstIndex_cons_one, firstIndex_append_cons p t endByte hp, Option.map_some]
  simp only [payloadOf, if_neg (not_malformed_of_start hlen), hfound, Nat.add_sub_cancel, slice_one_cons_append]

/-! ### DECODE (R103, R104) -/

theorem exec_decode_of_long {f : Bytes} {s : State} (h : s.params.maxFrameLen < f.length) :
    exec (.decode f) s = .next (answered .invalidArgument [] s) :=
  withShape_of_not_ok _ (mt (shapeOk_frame _ _).1 h.not_ge)

theorem exec_decode_of_error {f : Bytes} {s : State} {rc : RC} (h : f.length ≤ s.params.maxFrameLen)
    (hp : payloadOf f = .error rc) : exec (.decode f) s = .next (answered rc [] s) := by
  simp only [exec, execDecode, withShape_of_ok _ ((shapeOk_frame _ _).2 h), hp, raise_eq_answered]

/-- A payload that RLEN can say is the answer. -/
theorem exec_decode_of_ok {f p : Bytes} {s : State} (h : f.length ≤ s.params.maxFrameLen) (hp : payloadOf f = .ok p)
    (hlen : p.length ≤ 65535) : exec (.decode f) s = .next (answered .ok p s) := by
  simp only [exec, execDecode, withShape_of_ok _ ((shapeOk_frame _ _).2 h), hp, respond_eq_answered .ok s hlen]

/-- DECODE of START, a payload region with its first END, and anything behind it. -/
theorem exec_decode_of_terminated {p t : Bytes} {s : State} (hr : s.params.inRange = true)
    (hmin : 3 ≤ (startByte :: (p ++ endByte :: t)).length)
    (hmax : (startByte :: (p ++ endByte :: t)).length ≤ s.params.maxFrameLen) (hp : endByte ∉ p) :
    exec (.decode (startByte :: (p ++ endByte :: t))) s = .next (answered .ok p s) := by
  have hrange := maxFrameLen_range hr
  have hlen : p.length ≤ 65535 := by
    simp only [List.length_cons, List.length_append] at hmax
    omega
  exact exec_decode_of_ok hmax (payloadOf_of_terminated t hmin hp) hlen

/-- Settles O12: each clause is one equation of `payloadOf`, behind the length bound. -/
theorem decodeExtractsThePayload : Obligations.DecodeExtractsThePayload := by
  intro s f hr
  refine ⟨⟨rfl, rfl⟩, exec_decode_of_long, fun hmax hbad => ?malformed, fun hmax hmin t hf ht => ?unterminated,
    fun hmax hmin p t hf hp => ?terminated⟩
  case malformed => exact exec_decode_of_error hmax (payloadOf_of_malformed hbad)
  case unterminated =>
    subst hf
    exact exec_decode_of_error hmax (payloadOf_of_unterminated hmin ht)
  case terminated =>
    subst hf
    exact exec_decode_of_terminated hr hmin hmax hp

/-! ### DECODE of ENCODE (R107, R108) -/

/-- The frame of a payload within ENCODE's bound is within DECODE's. -/
theorem length_frameOf_le {p : Bytes} {s : State} (hr : s.params.inRange = true) (h : p.length ≤ s.params.maxFrameLen - 3) :
    (frameOf p).length ≤ s.params.maxFrameLen := by
  have hrange := maxFrameLen_range hr
  rw [length_frameOf]
  omega

/-- DECODE of any frame, at the first END behind its START: the frame's own END, or one in the payload. -/
theorem exec_decode_frameOf {p k t : Bytes} {s : State} (hr : s.params.inRange = true)
    (hlen : p.length ≤ s.params.maxFrameLen - 3) (hsplit : frameOf p = startByte :: (k ++ endByte :: t)) (hk : endByte ∉ k) :
    exec (.decode (frameOf p)) s = .next (answered .ok k s) := by
  have hmin : 3 ≤ (frameOf p).length := by rw [length_frameOf]; omega
  have hmax := length_frameOf_le hr hlen
  rw [hsplit] at hmin hmax ⊢
  exact exec_decode_of_terminated hr hmin hmax hk

theorem exec_decode_frameOf_of_no_end {p : Bytes} {s : State} (hr : s.params.inRange = true)
    (hlen : p.length ≤ s.params.maxFrameLen - 3) (hp : endByte ∉ p) :
    exec (.decode (frameOf p)) s = .next (answered .ok p s) :=
  exec_decode_frameOf hr hlen (frameOf_eq p) hp

theorem exec_decode_frameOf_of_end {k rest : Bytes} {s : State} (hr : s.params.inRange = true)
    (hlen : (k ++ endByte :: rest).length ≤ s.params.maxFrameLen - 3) (hk : endByte ∉ k) :
    exec (.decode (frameOf (k ++ endByte :: rest))) s = .next (answered .ok k s) := by
  have hsplit := frameOf_eq (k ++ endByte :: rest)
  rw [List.append_assoc, List.cons_append] at hsplit
  exact exec_decode_frameOf hr hlen hsplit hk

/-- Settles O14: END in the payload stands before the frame's own END. -/
theorem endInPayloadCutsIt : Obligations.EndInPayloadCutsIt := by
  intro s k rest hr hk hlen
  refine ⟨_, _, exec_encode_of_fits hr hlen, rfl, ?_⟩
  exact exec_decode_frameOf_of_end (s := answered .ok _ s) hr hlen hk

/-- Settles O13: without END the frame's own END ends the payload; with END the answer is the shorter part before its first one. -/
theorem payloadRoundTripsExactlyWithoutEnd : Obligations.PayloadRoundTripsExactlyWithoutEnd := by
  intro s p hr hlen
  refine ⟨_, _, exec_encode_of_fits hr hlen, rfl, fun hround hmem => ?cut, fun hp => ?whole⟩
  case whole => exact exec_decode_frameOf_of_no_end (s := answered .ok _ s) hr hlen hp
  case cut =>
    obtain ⟨k, rest, rfl, hk⟩ := List.eq_append_cons_of_mem hmem
    have hcut := exec_decode_frameOf_of_end (s := answered .ok (frameOf (k ++ endByte :: rest)) s) hr hlen hk
    have hsame : k ++ endByte :: rest = k := answered_data_inj (Host.Outcome.next.inj (hround.symm.trans hcut))
    simp at hsame

end Sys2Proof.Machine
end

section
/-! PROOF. The reassembler (41_reassembler.md): one equation of `Process()` per step of R131 (O15 to O18; R132, R133, R136, R137), the
frame test under an error pattern (O26; R145), RX_CHUNK byte by byte (O20; R130), RX_FAULT (O29; R141), and chunk independence (O22;
R140). `process_append` carries the last one: bytes that arrive behind a buffer do not change what `Process()` does with it first. -/

namespace Sys2Proof.Machine

/-! ### `Process()` reads the buffer through one pass -/

@[simp] theorem setRxbuf_setRxbuf (b c : Bytes) (s : State) : (s.setRxbuf b).setRxbuf c = s.setRxbuf c := rfl

/-- The pass stops: what it leaves is the buffer. -/
theorem process_of_stop {s : State} {b : Bytes} (h : pass s.rxbuf = .stop b) : process s = s.setRxbuf b := by
  rw [process_eq, h]

/-- The pass emits: `Process()` goes on behind the frame. -/
theorem process_of_emit {s : State} {f r : Bytes} (h : pass s.rxbuf = .emit f r) :
    process s = process ((s.setRxbuf r).deliver f) := by
  rw [process_eq, h]

/-- The pass drops the START: `Process()` goes on behind it. -/
theorem process_of_drop {s : State} {r : Bytes} (h : pass s.rxbuf = .drop r) : process s = process (s.setRxbuf r) := by
  rw [process_eq, h]

/-- Two buffers on which one pass decides the same are the same to `Process()`. -/
theorem process_congr_pass {b c : Bytes} (s : State) (h : pass b = pass c) :
    process (s.setRxbuf b) = process (s.setRxbuf c) := by
  rw [process_eq (s.setRxbuf b), process_eq (s.setRxbuf c)]
  simp only [setRxbuf_rxbuf, setRxbuf_setRxbuf, h]

/-! ### No START, and noise before it (R132, R133) -/

/-- Settles O15: the pass stops with no byte left. -/
theorem bufferWithoutStartIsEmptied : Obligations.BufferWithoutStartIsEmptied :=
  fun _ h => process_of_stop (pass_of_no_start h)

/-- Noise makes no difference to a pass, whether or not a START follows it. -/
theorem pass_noise_append {z : Bytes} (b : Bytes) (hz : startByte ∉ z) : pass (z ++ b) = pass b := by
  by_cases hb : startByte ∈ b
  · obtain ⟨w, t, rfl, hw⟩ := List.eq_append_cons_of_mem hb
    have hzw : startByte ∉ z ++ w := by simp [hz, hw]
    rw [← List.append_assoc, pass_of_noise t hzw, pass_of_noise t hw]
  · rw [pass_of_no_start hb, pass_of_no_start (by simp [hz, hb])]

theorem process_noise_append {z : Bytes} (b : Bytes) (s : State) (hz : startByte ∉ z) :
    process (s.setRxbuf (z ++ b)) = process (s.setRxbuf b) :=
  process_congr_pass s (pass_noise_append b hz)

/-- Settles O16: the noise makes no difference to the first pass. -/
theorem noiseBeforeStartIsDiscarded : Obligations.NoiseBeforeStartIsDiscarded :=
  fun s _ b hz => process_noise_append (startByte :: b) s hz

/-! ### A complete candidate (R136, R137) -/

/-- A pass over noise and a complete candidate is decided by the checksum. -/
theorem pass_of_candidate {z p : Bytes} (x : Byte) (r : Bytes) (hz : startByte ∉ z) (hp : endByte ∉ p) :
    pass (z ++ startByte :: (p ++ endByte :: x :: r)) =
      if x = xorfold (frameBody p) then .emit (frameOf p) r else .drop (p ++ endByte :: x :: r) := by
  rw [pass_of_noise _ hz, passFromStart_of_candidate x r hp]

theorem routed_of_not_awaiting (frames : List Bytes) {s : State} (h : s.cstate ≠ .awaiting) :
    routed frames s = { s with history := s.history ++ frames.map .unsol } := by
  unfold routed
  split
  · next hc => exact absurd hc h
  · rfl

/-- One frame is routed as it is delivered (42_correlator.md R177). -/
theorem routed_singleton (c : Bytes) (s : State) : routed [c] s = s.deliver c := by
  rcases deliver_cases c s with ⟨hc, hd⟩ | ⟨hc, hd⟩ <;> rw [hd]
  · simp [routed, hc]
  · exact routed_of_not_awaiting [c] hc

/-- Settles O17: the first pass emits the frame and leaves the rest. -/
theorem validCandidateIsDelivered : Obligations.ValidCandidateIsDelivered := by
  rintro s p x r hp rfl
  have hpass : pass (startByte :: (p ++ endByte :: xorfold (frameBody p) :: r)) = .emit (frameOf p) r :=
    (pass_of_candidate _ r List.not_mem_nil hp).trans (if_pos rfl)
  have hframe : frameOf p = 0x05#8 :: (p ++ [0x04#8, xorfold (frameBody p)]) := frameOf_eq p
  calc process (s.setRxbuf (startByte :: (p ++ endByte :: xorfold (frameBody p) :: r)))
    _ = process ((s.setRxbuf r).deliver (frameOf p)) := process_of_emit (s := s.setRxbuf _) hpass
    _ = process (routed [frameOf p] (s.setRxbuf r)) := by rw [routed_singleton]
    _ = process (routed [0x05#8 :: (p ++ [0x04#8, xorfold (frameBody p)])] (s.setRxbuf r)) := by rw [hframe]

/-- Settles O18: the first pass drops the START, and what it goes on with is the rest of the buffer. -/
theorem wrongChecksumDropsOneByte : Obligations.WrongChecksumDropsOneByte := by
  intro s p x r hp hx
  have hpass : pass (startByte :: (p ++ endByte :: x :: r)) = .drop (p ++ endByte :: x :: r) :=
    (pass_of_candidate x r List.not_mem_nil hp).trans (if_neg hx)
  exact process_of_drop (s := s.setRxbuf _) hpass

/-! ### The frame test under an error pattern (R145) -/

/-- The fold of a corrupted sequence is its own fold and the error pattern's. -/
theorem xorfold_zipWith_xor {c e : Bytes} (h : c.length = e.length) :
    xorfold (List.zipWith (· ^^^ ·) c e) = xorfold c ^^^ xorfold e := by
  induction c generalizing e with
  | nil =>
    obtain rfl : e = [] := List.length_eq_zero_iff.1 h.symm
    rfl
  | cons a c ih =>
    obtain ⟨b, e, rfl⟩ := List.exists_cons_of_length_eq_add_one h.symm
    rw [List.zipWith_cons_cons, xorfold_cons, ih (Nat.succ.inj h), xorfold_cons, xorfold_cons]
    ac_rfl

/-- A fold is not zero exactly when some column has odd parity. -/
theorem xorfold_ne_zero_iff (e : Bytes) :
    xorfold e ≠ 0#8 ↔ ∃ k < 8, (e.countP fun b => b.getLsbD k) % 2 = 1 := by
  have hzero : xorfold e = 0#8 ↔ ∀ k < 8, (xorfold e).getLsbD k = false :=
    ⟨fun h k _ => by rw [h, BitVec.getLsbD_zero],
      fun h => BitVec.eq_of_getLsbD_eq fun k hk => by rw [h k hk, BitVec.getLsbD_zero]⟩
  simp [hzero, getLsbD_xorfold]

/-- Settles O26: a valid candidate folds to zero, so the corrupted span folds to what the error pattern folds to. -/
theorem detectionIsColumnParity : Obligations.DetectionIsColumnParity := by
  intro c e hlen hc
  obtain ⟨hmin, hfold⟩ := (frameValid_iff c).1 hc
  have hlen' : (List.zipWith (· ^^^ ·) c e).length = c.length := by rw [List.length_zipWith, ← hlen, min_self]
  have hfold' : xorfold (List.zipWith (· ^^^ ·) c e) = xorfold e := by
    rw [xorfold_zipWith_xor hlen, hfold, BitVec.zero_xor]
  calc frameValid (List.zipWith (· ^^^ ·) c e) = false
    _ ↔ ¬ (3 ≤ c.length ∧ xorfold e = 0#8) := by rw [← Bool.not_eq_true, frameValid_iff, hlen', hfold']
    _ ↔ xorfold e ≠ 0#8 := not_congr (and_iff_right hmin)
    _ ↔ ∃ k < 8, (e.countP fun b => b.getLsbD k) % 2 = 1 := xorfold_ne_zero_iff e

/-! ### RX_CHUNK and RX_FAULT (R130, R141) -/

/-- RX_CHUNK completes in every state. -/
theorem exec_rxChunk (d : Bytes) (s : State) : exec (.rxChunk d) s = .next (d.foldl rxByte s) := rfl

theorem exec_rxChunk_cons (b : Byte) (d : Bytes) (s : State) :
    exec (.rxChunk (b :: d)) s = exec (.rxChunk d) (rxByte s b) := rfl

/-- `INF` is never exceeded, so nothing is dropped (R139). -/
theorem rxByte_of_inf {s : State} (b : Byte) (h : (process (s.setRxbuf (s.rxbuf ++ [b]))).params.rxBufCap = .inf) :
    rxByte s b = process (s.setRxbuf (s.rxbuf ++ [b])) := by
  rcases rxByte_cases s b with ⟨-, hr⟩ | ⟨hover, -⟩
  · exact hr
  · exact absurd h (overCap_finite hover)

/-- A finite capacity is compared with what `Process()` left (R139). -/
theorem rxByte_of_finite {s : State} {n : Nat} (b : Byte)
    (h : (process (s.setRxbuf (s.rxbuf ++ [b]))).params.rxBufCap = .finite n) :
    rxByte s b =
      if n < (process (s.setRxbuf (s.rxbuf ++ [b]))).rxbuf.length then overflowDrop (process (s.setRxbuf (s.rxbuf ++ [b])))
      else process (s.setRxbuf (s.rxbuf ++ [b])) := by
  simp only [rxByte, overCap, h, decide_eq_true_eq]

/-- Settles O20: the first byte's loop body is `rxByte`, one equation for each kind of capacity. -/
theorem rxChunkTakesItsBytesInOrder : Obligations.RxChunkTakesItsBytesInOrder := by
  refine ⟨fun d => ⟨rfl, rfl⟩, exec_rxChunk [], fun s b d => ⟨⟨_, exec_rxChunk (b :: d) s⟩, _, rfl, fun hinf => ?inf,
    fun n hfin => ?finite⟩⟩
  case inf => exact (exec_rxChunk_cons b d s).trans (congrArg (exec (.rxChunk d)) (rxByte_of_inf b hinf))
  case finite => exact (exec_rxChunk_cons b d s).trans (congrArg (exec (.rxChunk d)) (rxByte_of_finite b hfin))

/-- Settles O29: `execRxFault_eq` behind the dispatch. -/
theorem rxFaultChangesNothing : Obligations.RxFaultChangesNothing :=
  fun s d => ⟨⟨rfl, rfl⟩, execRxFault_eq d s⟩

/-! ### What arrives behind a buffer does not change what a pass decides (R140) -/

/-- Where a pass stops, it has taken noise from the front and nothing else. -/
theorem pass_stop_noise {buf b : Bytes} (h : pass buf = .stop b) : ∃ z, startByte ∉ z ∧ buf = z ++ b := by
  rcases seen buf with hs | ⟨z, p, hz, hp, rfl⟩ | ⟨z, p, x, r, hz, hp, rfl⟩
  · rw [pass_of_no_start hs] at h
    cases h
    exact ⟨buf, hs, (List.append_nil buf).symm⟩
  · rw [pass_of_noise _ hz, passFromStart_of_incomplete hp] at h
    cases h
    exact ⟨z, hz, rfl⟩
  · rw [pass_of_candidate x r hz hp] at h
    split at h <;> cases h

/-- Where a pass does not stop, it has seen a complete candidate. -/
theorem candidate_of_not_stop {buf : Bytes} (h : ∀ b, pass buf ≠ .stop b) :
    ∃ z p x r, startByte ∉ z ∧ endByte ∉ p ∧ buf = z ++ startByte :: (p ++ endByte :: x :: r) := by
  rcases seen buf with hs | ⟨z, p, hz, hp, rfl⟩ | ⟨z, p, x, r, hz, hp, rfl⟩
  · exact absurd (pass_of_no_start hs) (h _)
  · exact absurd ((pass_of_noise p hz).trans (passFromStart_of_incomplete hp)) (h _)
  · exact ⟨z, p, x, r, hz, hp, rfl⟩

/-- A complete candidate stays the candidate when bytes arrive behind it. -/
theorem pass_candidate_append {z p : Bytes} (x : Byte) (r d : Bytes) (hz : startByte ∉ z) (hp : endByte ∉ p) :
    pass (z ++ startByte :: (p ++ endByte :: x :: r) ++ d) =
      if x = xorfold (frameBody p) then .emit (frameOf p) (r ++ d) else .drop (p ++ endByte :: x :: r ++ d) := by
  simpa using pass_of_candidate x (r ++ d) hz hp

theorem pass_emit_append {buf f r : Bytes} (d : Bytes) (h : pass buf = .emit f r) : pass (buf ++ d) = .emit f (r ++ d) := by
  obtain ⟨z, p, x, t, hz, hp, rfl⟩ := candidate_of_not_stop (buf := buf) (by simp [h])
  rw [pass_of_candidate x t hz hp] at h
  rw [pass_candidate_append x t d hz hp]
  split at h <;> cases h
  next hx => rw [if_pos hx]

theorem pass_drop_append {buf r : Bytes} (d : Bytes) (h : pass buf = .drop r) : pass (buf ++ d) = .drop (r ++ d) := by
  obtain ⟨z, p, x, t, hz, hp, rfl⟩ := candidate_of_not_stop (buf := buf) (by simp [h])
  rw [pass_of_candidate x t hz hp] at h
  rw [pass_candidate_append x t d hz hp]
  split at h <;> cases h
  next hx => rw [if_neg hx]

theorem deliver_setRxbuf (c b : Bytes) (s : State) : (s.deliver c).setRxbuf b = (s.setRxbuf b).deliver c := by
  rcases deliver_cases c s with ⟨hc, hd⟩ | ⟨hc, hd⟩ <;> rw [hd]
  · exact (deliver_of_awaiting (s := s.setRxbuf b) c hc).symm
  · exact (deliver_of_not_awaiting (s := s.setRxbuf b) c hc).symm

/-- A run of `Process()` before more bytes arrive changes nothing: the run behind them does the same passes again. -/
theorem process_append (s : State) (d : Bytes) :
    process ((process s).setRxbuf ((process s).rxbuf ++ d)) = process (s.setRxbuf (s.rxbuf ++ d)) := by
  induction s using process_induction with
  | stop s b h =>
    obtain ⟨z, hz, hbuf⟩ := pass_stop_noise h
    rw [process_of_stop h, hbuf, List.append_assoc, process_noise_append _ s hz]
    rfl
  | emit s f r h ih =>
    have hemit : pass (s.setRxbuf (s.rxbuf ++ d)).rxbuf = .emit f (r ++ d) := pass_emit_append d h
    rw [process_of_emit h, process_of_emit hemit, ih, deliver_setRxbuf, deliver_rxbuf, setRxbuf_rxbuf, setRxbuf_setRxbuf,
      setRxbuf_setRxbuf]
  | drop s r h ih =>
    have hdrop : pass (s.setRxbuf (s.rxbuf ++ d)).rxbuf = .drop (r ++ d) := pass_drop_append d h
    rw [process_of_drop h, process_of_drop hdrop, ih, setRxbuf_rxbuf, setRxbuf_setRxbuf, setRxbuf_setRxbuf]

/-! ### A buffer at rest (10_state.md R23) -/

/-- The shapes of R23: empty, or a START with no END before the last byte. -/
theorem atRest_cases {buf : Bytes} (h : atRest buf = true) :
    buf = [] ∨ ∃ p, buf = startByte :: p ∧ endByte ∉ p.dropLast := by
  cases buf with
  | nil => exact .inl rfl
  | cons b p =>
    simp only [atRest, List.isEmpty_cons, Bool.false_or, List.head?_cons, Bool.and_eq_true, Bool.or_eq_true, beq_iff_eq,
      Option.some.injEq, firstIndex_cons_one, Option.map_eq_none_iff, Option.map_eq_some_iff, List.length_cons] at h
    obtain ⟨rfl, hnone | ⟨k, hk, hlast⟩⟩ := h
    · have hp : endByte ∉ p := by simpa using (firstIndex_eq_none p endByte 0).1 hnone
      exact .inr ⟨p, rfl, mt List.mem_of_mem_dropLast hp⟩
    · obtain ⟨q, t, rfl, hq, rfl⟩ := firstIndex_eq_some hk
      obtain rfl : t = [] := by simpa using hlast
      exact .inr ⟨_, rfl, by simpa using hq⟩

theorem process_of_atRest {s : State} (h : atRest s.rxbuf = true) : process s = s := by
  have hpass : pass s.rxbuf = .stop s.rxbuf := by
    rcases atRest_cases h with hb | ⟨p, hb, hp⟩ <;> rw [hb]
    · rfl
    · rw [pass_start, passFromStart_of_incomplete hp]
  exact process_of_stop hpass

/-! ### Chunk independence (R140) -/

theorem rxChunks_eq (chunks : List Bytes) (s : State) : rxChunks chunks s = exec (.rxChunk chunks.flatten) s := by
  induction chunks generalizing s with
  | nil => rfl
  | cons d ds ih =>
    calc rxChunks (d :: ds) s
      _ = rxChunks ds (d.foldl rxByte s) := rfl
      _ = .next (ds.flatten.foldl rxByte (d.foldl rxByte s)) := ih _
      _ = exec (.rxChunk (d :: ds).flatten) s := by rw [exec_rxChunk, List.flatten_cons, List.foldl_append]

/-- With `INF`, the bytes of a chunk one by one do what one run of `Process()` behind the whole chunk does. -/
theorem foldl_rxByte_of_inf (d : Bytes) {s : State} (hinf : s.params.rxBufCap = .inf) (hrest : atRest s.rxbuf = true) :
    d.foldl rxByte s = process (s.setRxbuf (s.rxbuf ++ d)) := by
  induction d generalizing s with
  | nil => rw [List.append_nil]; exact (process_of_atRest hrest).symm
  | cons b d ih =>
    obtain ⟨-, -, -, hpar, -⟩ := process_frame (s.setRxbuf (s.rxbuf ++ [b]))
    obtain ⟨hrest', -⟩ := process_atRest (s.setRxbuf (s.rxbuf ++ [b]))
    have hinf' : (process (s.setRxbuf (s.rxbuf ++ [b]))).params.rxBufCap = .inf := by rw [hpar]; exact hinf
    rw [List.foldl_cons, rxByte_of_inf b hinf', ih hinf' hrest', process_append, setRxbuf_rxbuf, setRxbuf_setRxbuf,
      List.append_assoc, List.singleton_append]

/-- Settles O22: the cuts vanish in the fold over the bytes, and with `INF` the fold is one run of `Process()`. -/
theorem chunkCutsMakeNoDifference : Obligations.ChunkCutsMakeNoDifference :=
  ⟨fun s chunks => rxChunks_eq chunks s, fun _ d hinf hrest => congrArg Host.Outcome.next (foldl_rxByte_of_inf d hinf hrest)⟩

end Sys2Proof.Machine
end

section
/-! PROOF. The correlator (42_correlator.md): RX_CHUNK as the reassembler over the buffer alone with its frames routed in order (O27;
R177), the exchange operations (O30 to O34; R171, R172, R174 to R176, R179, R180), the link level (O38; R182), and the status operations
(O40, O41; R183, R184). O27 runs on one composition law: what one received stretch of bytes does, and then another one, is what the two
do together (`receive_receive`). -/

namespace Sys2Proof.Machine

/-! ### Routing several frames is delivering them one by one (R177) -/

@[simp] theorem routed_nil (s : State) : routed [] s = s := by
  unfold routed
  split
  · contradiction
  · rw [List.map_nil, List.append_nil]

/-- The first frame takes the waiting exchange, if there is one; nothing behind it finds the exchange waiting. -/
theorem routed_cons (c : Bytes) (later : List Bytes) (s : State) : routed (c :: later) s = routed later (s.deliver c) := by
  rcases deliver_cases c s with ⟨hc, hd⟩ | ⟨hc, hd⟩ <;> rw [hd]
  · simp [routed, hc]
  · rw [routed_of_not_awaiting _ hc, routed_of_not_awaiting later (s := { s with history := s.history ++ [.unsol c] }) hc]
    simp

theorem routed_append (fs gs : List Bytes) (s : State) : routed (fs ++ gs) s = routed gs (routed fs s) := by
  induction fs generalizing s with
  | nil => rw [List.nil_append, routed_nil]
  | cons c fs ih => rw [List.cons_append, routed_cons, routed_cons, ih]

@[simp] theorem routed_rxbuf (fs : List Bytes) (s : State) : (routed fs s).rxbuf = s.rxbuf := by
  unfold routed; split <;> rfl

@[simp] theorem routed_ovf (fs : List Bytes) (s : State) : (routed fs s).ovf = s.ovf := by
  unfold routed; split <;> rfl

@[simp] theorem routed_params (fs : List Bytes) (s : State) : (routed fs s).params = s.params := by
  unfold routed; split <;> rfl

theorem setRxbuf_routed (b : Bytes) (fs : List Bytes) (s : State) : (routed fs s).setRxbuf b = routed fs (s.setRxbuf b) := by
  simp only [routed, setRxbuf_cstate]; split <;> rfl

theorem setOvf_routed (v : Bool) (fs : List Bytes) (s : State) : (routed fs s).setOvf v = routed fs (s.setOvf v) := by
  simp only [routed, setOvf_cstate]; split <;> rfl

/-! ### What reassembly over the buffer alone does to a state -/

/-- The state behind an outcome of the reassembler over the buffer alone: the buffer it left, OVF where it overflowed, and its frames
routed. -/
def State.receive (out : Bytes × List Bytes × Bool) (s : State) : State :=
  routed out.2.1 ((s.setRxbuf out.1).setOvf (s.ovf || out.2.2))

@[simp] theorem receive_rxbuf (out : Bytes × List Bytes × Bool) (s : State) : (s.receive out).rxbuf = out.1 := by
  simp [State.receive]

@[simp] theorem receive_ovf (out : Bytes × List Bytes × Bool) (s : State) : (s.receive out).ovf = (s.ovf || out.2.2) := by
  simp [State.receive]

@[simp] theorem receive_params (out : Bytes × List Bytes × Bool) (s : State) : (s.receive out).params = s.params := by
  simp [State.receive]

/-- The buffer before is not read. -/
@[simp] theorem setRxbuf_receive (b : Bytes) (out : Bytes × List Bytes × Bool) (s : State) :
    (s.setRxbuf b).receive out = s.receive out := rfl

/-- Two outcomes in a row: the last buffer, the frames of both in order, and either overflow. -/
theorem receive_receive (first again : Bytes × List Bytes × Bool) (s : State) :
    (s.receive first).receive again = s.receive (again.1, first.2.1 ++ again.2.1, first.2.2 || again.2.2) :=
  calc (s.receive first).receive again
    _ = routed again.2.1 (((s.receive first).setRxbuf again.1).setOvf (s.ovf || first.2.2 || again.2.2)) := by
      rw [State.receive, receive_ovf]
    _ = routed again.2.1 (routed first.2.1 ((s.setRxbuf again.1).setOvf (s.ovf || first.2.2 || again.2.2))) := by
      rw [State.receive, setRxbuf_routed, setOvf_routed]; rfl
    _ = s.receive (again.1, first.2.1 ++ again.2.1, first.2.2 || again.2.2) := by
      rw [State.receive, routed_append, Bool.or_assoc]

/-! ### `Process()` and its passes over the buffer alone (41_reassembler.md R131) -/

/-- Both loops make the same passes: a pass reads nothing but the buffer, and a delivery does not touch it. -/
theorem processLoop_eq_routed (n : Nat) (s : State) :
    processLoop n s = routed (scan n s.rxbuf).2 (s.setRxbuf (scan n s.rxbuf).1) := by
  induction n generalizing s with
  | zero => exact (routed_nil s).symm
  | succ n ih =>
    simp only [processLoop, scan]
    cases pass s.rxbuf with
    | stop b => exact (routed_nil _).symm
    | emit f r =>
      calc processLoop n ((s.setRxbuf r).deliver f)
        _ = routed (scan n r).2 (((s.setRxbuf r).deliver f).setRxbuf (scan n r).1) := by
          rw [ih, deliver_rxbuf, setRxbuf_rxbuf]
        _ = routed (f :: (scan n r).2) (s.setRxbuf (scan n r).1) := by
          rw [deliver_setRxbuf, setRxbuf_setRxbuf, routed_cons]
    | drop r =>
      dsimp only
      rw [ih, setRxbuf_rxbuf, setRxbuf_setRxbuf]

theorem process_eq_receive (s : State) :
    process s = s.receive ((reassembled s.rxbuf).1, (reassembled s.rxbuf).2, false) := by
  rw [State.receive, Bool.or_false]
  exact processLoop_eq_routed _ s

theorem overflowDrop_eq_receive (s : State) :
    overflowDrop s = s.receive ((reassembled (s.rxbuf.drop 1)).1, (reassembled (s.rxbuf.drop 1)).2, true) := by
  rw [overflowDrop, process_eq_receive, setRxbuf_receive, setRxbuf_rxbuf, State.receive, State.receive, Bool.or_true]
  rfl

/-! ### RX_CHUNK over the buffer alone (R130, R139, R177) -/

/-- One byte: one outcome, or two in a row where the capacity is exceeded. -/
theorem rxByte_eq_receive (s : State) (b : Byte) : rxByte s b = s.receive (receivedByte s.params s.rxbuf b) := by
  have hfirst : process (s.setRxbuf (s.rxbuf ++ [b])) =
      s.receive ((reassembled (s.rxbuf ++ [b])).1, (reassembled (s.rxbuf ++ [b])).2, false) := by
    rw [process_eq_receive, setRxbuf_receive, setRxbuf_rxbuf]
  rcases rxByte_cases s b with ⟨hcap, hr⟩ | ⟨hcap, hr⟩ <;>
    rw [hfirst, receive_params, receive_rxbuf] at hcap <;> rw [hr, hfirst]
  · simp only [receivedByte, hcap, Bool.false_eq_true, if_false]
  · simp only [receivedByte, hcap, if_true]
    rw [overflowDrop_eq_receive, receive_receive, receive_rxbuf, Bool.false_or]

theorem foldl_rxByte_eq_receive (d : Bytes) (s : State) : d.foldl rxByte s = s.receive (received s.params s.rxbuf d) := by
  induction d generalizing s with
  | nil =>
    rw [State.receive, received, routed_nil, Bool.or_false]
    rfl
  | cons b d ih => rw [List.foldl_cons, ih, rxByte_eq_receive, receive_params, receive_rxbuf, receive_receive, received]

/-! ### What the passes emit is whole (R136) -/

theorem scan_wholeFrame (n : Nat) (buf : Bytes) : ∀ c ∈ (scan n buf).2, wholeFrame c = true := by
  induction n generalizing buf with
  | zero => simp [scan]
  | succ n ih =>
    cases h : pass buf with
    | stop left => simp [scan, h]
    | emit f r => simpa [scan, h] using And.intro (pass_emit_wholeFrame h) (ih r)
    | drop r => simpa [scan, h] using ih r

theorem receivedByte_wholeFrame (p : Params) (buf : Bytes) (b : Byte) :
    ∀ c ∈ (receivedByte p buf b).2.1, wholeFrame c = true := by
  intro c hc
  simp only [receivedByte] at hc
  split at hc
  · exact (List.mem_append.1 hc).elim (scan_wholeFrame _ _ c) (scan_wholeFrame _ _ c)
  · exact scan_wholeFrame _ _ c hc

theorem received_wholeFrame (p : Params) (buf d : Bytes) : ∀ c ∈ (received p buf d).2.1, wholeFrame c = true := by
  induction d generalizing buf with
  | nil => simp [received]
  | cons b d ih => exact fun c hc => (List.mem_append.1 hc).elim (receivedByte_wholeFrame p buf b c) (ih _ c)

/-- Settles O27: the fold over the bytes is the composition of their outcomes over the buffer alone. -/
theorem rxChunkRoutesItsFramesInOrder : Obligations.RxChunkRoutesItsFramesInOrder :=
  fun s d => ⟨received_wholeFrame s.params s.rxbuf d, congrArg Host.Outcome.next (foldl_rxByte_eq_receive d s)⟩

/-! ### EXCH_START (R171, R172) -/

/-- An admitted operand: what is checked and done behind the shape check. -/
theorem exec_exchStart_of_fits {f : Bytes} {s : State} (h : f.length ≤ s.params.maxFrameLen) :
    exec (.exchStart f) s =
      .next (if s.cstate ≠ .idle ∨ s.txbusy = true then answered .alreadyPending [] s
             else if s.linkOpen = false then answered .transportNotReady [] s
             else answered .ok [] (((s.setCstate .awaiting).setTxbusy true).emit (.txw f))) := by
  simp only [exec, execExchStart, withShape_of_ok _ ((shapeOk_frame _ _).2 h), raise_eq_answered,
    respond_eq_answered .ok (data := []) _ (Nat.zero_le _), apply_ite Host.Outcome.next]

/-- Settles O30: the shape check decides between O42's refusal and the two state checks. -/
theorem exchStartSetsTheMarkerAndWrites : Obligations.ExchStartSetsTheMarkerAndWrites := by
  refine fun s f => ⟨⟨rfl, rfl⟩, ?_⟩
  obtain ⟨-, -, hlong, -⟩ := operandShapeChecksComeFirst
  split
  next hf =>
    obtain ⟨-, hexch⟩ := hlong s f hf
    exact hexch
  next hf => exact exec_exchStart_of_fits (not_lt.1 hf)

/-! ### TX_DONE_OK and TX_DONE_FAIL (R174 to R176) -/

/-- Settles O31: the one test is on TXBUSY, and each branch is a next state. -/
theorem txDoneOkClearsTxbusy : Obligations.TxDoneOkClearsTxbusy :=
  fun s _ => ⟨⟨rfl, rfl⟩, (apply_ite Host.Outcome.next (s.txbusy = true) (s.setTxbusy false) s).symm⟩

/-- Settles O32: as O31, with the failed write's three updates. -/
theorem txDoneFailFailsTheExchange : Obligations.TxDoneFailFailsTheExchange :=
  fun s _ => ⟨⟨rfl, rfl⟩,
    (apply_ite Host.Outcome.next (s.txbusy = true) (((s.setTxbusy false).setResp none).setCstate .wfailed) s).symm⟩

/-! ### COLLECT and TIMEOUT (R179, R180) -/

/-- An absent operand has the shape these operations ask for (30_encoding.md R83). -/
theorem withShape_empty_nil (s : State) (k : StepOutcome) : withShape .empty [] s k = k :=
  withShape_of_ok k ((shapeOk_empty _ _).2 rfl)

theorem exec_collect_of_busy {s : State} (hb : s.txbusy = true) : exec (.collect []) s = .next (answered .busy [] s) := by
  simp only [exec, execCollect, withShape_empty_nil, hb, if_true, raise_eq_answered]

theorem exec_collect_of_idle {s : State} (hb : s.txbusy = false) (hc : s.cstate = .idle) :
    exec (.collect []) s = .next (answered .noExchange [] s) := by
  simp only [exec, execCollect, withShape_empty_nil, hb, Bool.false_eq_true, if_false, hc,
    raise_eq_answered]

theorem exec_collect_of_awaiting {s : State} (hb : s.txbusy = false) (hc : s.cstate = .awaiting) :
    exec (.collect []) s = .next (answered .waiting [] s) := by
  simp only [exec, execCollect, withShape_empty_nil, hb, Bool.false_eq_true, if_false, hc,
    raise_eq_answered]

theorem exec_collect_of_wfailed {s : State} (hb : s.txbusy = false) (hc : s.cstate = .wfailed) :
    exec (.collect []) s = .next (answered .transportWriteError [] (s.setCstate .idle)) := by
  simp only [exec, execCollect, withShape_empty_nil, hb, Bool.false_eq_true, if_false, hc,
    returnWriteError, raise_eq_answered]

theorem exec_collect_of_fulfilled {s : State} {r : Bytes} (hb : s.txbusy = false) (hc : s.cstate = .fulfilled)
    (hr : s.resp = some r) : exec (.collect []) s = .next (((s.setResp none).setCstate .idle).respond .ok r) := by
  simp only [exec, execCollect, withShape_empty_nil, hb, Bool.false_eq_true, if_false, hc,
    returnResponse, hr]

/-- R180 differs from R179 only where an exchange waits and its write has returned. -/
theorem exec_timeout_eq_collect {s : State} (h : s.txbusy = true ∨ s.cstate ≠ .awaiting) :
    exec (.timeout []) s = exec (.collect []) s := by
  simp only [exec, execTimeout, execCollect, withShape_empty_nil]
  rcases h with hb | hc
  · simp only [hb, if_true]
  · cases hs : s.cstate with
    | awaiting => exact absurd hs hc
    | idle | fulfilled | wfailed => rfl

theorem exec_timeout_of_awaiting {s : State} (hb : s.txbusy = false) (hc : s.cstate = .awaiting) :
    exec (.timeout []) s = .next (answered .timedOut [] (s.setCstate .idle)) := by
  simp only [exec, execTimeout, withShape_empty_nil, hb, Bool.false_eq_true, if_false, hc,
    raise_eq_answered]

/-- Settles O33: one equation per outcome, and `respond_cases` for a frame of any length. -/
theorem collectReturnsTheOutcome : Obligations.CollectReturnsTheOutcome := by
  obtain ⟨hempty, -⟩ := operandShapeChecksComeFirst
  refine ⟨fun d => ⟨rfl, rfl⟩, fun s d hd => ?shape, fun s => exec_collect_of_busy,
    fun s hb => ⟨exec_collect_of_idle hb, exec_collect_of_awaiting hb, exec_collect_of_wfailed hb, fun hc r hr => ?fulfilled⟩⟩
  case shape =>
    obtain ⟨hcollect, -⟩ := hempty s d hd
    exact hcollect
  case fulfilled =>
    obtain ⟨n, k, hresp, hshort⟩ := respond_cases .ok r ((s.setResp none).setCstate .idle)
    exact ⟨n, k, (exec_collect_of_fulfilled hb hc hr).trans (congrArg Host.Outcome.next hresp), hshort⟩

/-- Settles O34: outside AWAITING it is O33, through `exec_timeout_eq_collect`. -/
theorem timeoutEndsTheExchange : Obligations.TimeoutEndsTheExchange := by
  obtain ⟨hempty, -⟩ := operandShapeChecksComeFirst
  obtain ⟨-, -, hbusy, hreturned⟩ := collectReturnsTheOutcome
  refine ⟨fun d => ⟨rfl, rfl⟩, fun s d hd => ?shape,
    fun s hb => (exec_timeout_eq_collect (.inl hb)).trans (hbusy s hb), fun s hb => ?returned⟩
  case shape =>
    obtain ⟨-, htimeout, -⟩ := hempty s d hd
    exact htimeout
  case returned =>
    obtain ⟨hidle, -, hwfailed, hfulfilled⟩ := hreturned s hb
    refine ⟨fun hc => ?idle, exec_timeout_of_awaiting hb, fun hc => ?wfailed, fun hc => ?fulfilled⟩ <;>
      rw [exec_timeout_eq_collect (.inr (by simp [hc]))]
    case idle => exact hidle hc
    case wfailed => exact hwfailed hc
    case fulfilled => exact hfulfilled hc

/-! ### LINK_STATE (R182) -/

theorem execLinkState_of_level {d : Bytes} {v : Bool} (s : State) (h : linkLevel d = some v) :
    execLinkState d s = .next (s.setLinkOpen v) := by
  simp only [execLinkState, h]

/-- Settles O38: the two levels, and any other operand has none. -/
theorem linkStateSetsTheLevel : Obligations.LinkStateSetsTheLevel := by
  refine fun s d => ⟨⟨rfl, rfl⟩, ?_⟩
  split
  next hd => exact execLinkState_of_level s (by rw [hd]; rfl)
  next hclosed =>
    split
    next hd => exact execLinkState_of_level s (by rw [hd]; rfl)
    next hopen =>
      have hnone : linkLevel d = none := by
        cases hl : linkLevel d with
        | none => rfl
        | some v => rcases linkLevel_some hl with ⟨hd, -⟩ | ⟨hd, -⟩ <;> contradiction
      exact execLinkState_of_no_level s hnone

/-! ### READ_STATUS and CLEAR_OVF (R33, R183, R184) -/

/-- Byte `k / 8` of a number that fits 32 bits. -/
theorem extractLsb'_ofNat_32 {n : Nat} (k : Nat) (h : n < 2 ^ 32) :
    (BitVec.ofNat 32 n).extractLsb' k 8 = BitVec.ofNat 8 (n / 2 ^ k) := by
  apply BitVec.eq_of_toNat_eq
  rw [BitVec.extractLsb'_toNat, BitVec.toNat_ofNat, BitVec.toNat_ofNat, Nat.mod_eq_of_lt h, Nat.shiftRight_eq_div_pow]

theorem be32_ofNat {n : Nat} (h : n < 2 ^ 32) :
    be32 (BitVec.ofNat 32 n) =
      [BitVec.ofNat 8 (n / 2 ^ 24), BitVec.ofNat 8 (n / 2 ^ 16), BitVec.ofNat 8 (n / 2 ^ 8), BitVec.ofNat 8 n] := by
  simp only [be32, extractLsb'_ofNat_32 _ h, Nat.pow_zero, Nat.div_one]

/-- Settles O40: the saturated length fits its 32 bits, so its four bytes are those of the number. -/
theorem readStatusReturnsStatusAndLength : Obligations.ReadStatusReturnsStatusAndLength := by
  refine fun s d => ⟨⟨rfl, rfl⟩, ?_⟩
  have hfits : min s.rxbuf.length 0xFFFFFFFF < 2 ^ 32 := by omega
  split
  next hd =>
    rw [← be32_ofNat hfits, ← respond_eq_answered .ok s (by simp [be32])]
    exact withShape_of_ok _ ((shapeOk_empty _ _).2 hd)
  next hd => exact withShape_of_not_ok _ (mt (shapeOk_empty _ _).1 hd)

/-- Settles O41: behind the shape check there is no other test. -/
theorem clearOvfClearsTheFlag : Obligations.ClearOvfClearsTheFlag := by
  refine fun s d => ⟨⟨rfl, rfl⟩, ?_⟩
  split
  next hd =>
    rw [← respond_eq_answered .ok _ (by simp)]
    exact withShape_of_ok _ ((shapeOk_empty _ _).2 hd)
  next hd => exact withShape_of_not_ok _ (mt (shapeOk_empty _ _).1 hd)

end Sys2Proof.Machine
end

section
/-! PROOF. The level output RESP_READY (O43; 60_exceptions.md R256): where it is 1, COLLECT returns the outcome of an exchange that is
over and leaves IDLE, where the level is 0. -/

namespace Sys2Proof.Machine

theorem respReady_iff (s : State) :
    respReady s = true ↔ (s.cstate = .fulfilled ∨ s.cstate = .wfailed) ∧ s.txbusy = false := by
  simp only [respReady, Bool.and_eq_true, Bool.or_eq_true, beq_iff_eq, Bool.not_eq_true']

theorem respReady_of_idle {s : State} (h : s.cstate = .idle) : respReady s = false := by
  simp [respReady, h]

/-- R36 (a) where it says that there is a response to return. -/
theorem exists_resp_of_fulfilled {s : State} (hm : respMatches s = true) (hc : s.cstate = .fulfilled) :
    ∃ r, s.resp = some r :=
  Option.isSome_iff_exists.1 (((respMatches_iff s).1 hm).2 hc)

/-- Settles O43: FULFILLED answers `OK` with the response that R36 (a) gives it, WFAILED answers `TransportWriteError`, and both leave
IDLE. -/
theorem respReadyMeansCollectIsFinal : Obligations.RespReadyMeansCollectIsFinal := by
  refine ⟨respReady_iff, fun s hready hmatches => ?_⟩
  obtain ⟨hc | hc, hb⟩ := (respReady_iff s).1 hready
  case inl =>
    obtain ⟨r, hr⟩ := exists_resp_of_fulfilled hmatches hc
    exact ⟨_, _, exec_collect_of_fulfilled hb hc hr, respond_results .ok r _, by simp, by simp, respReady_of_idle rfl⟩
  case inr =>
    exact ⟨_, _, exec_collect_of_wfailed hb hc, rfl, by simp, by simp, respReady_of_idle rfl⟩

end Sys2Proof.Machine
end

section
/-! PROOF. Reset (O7; 70_reset_and_hazards.md R280): the elements it writes, and the three views software reads of them. -/

namespace Sys2Proof.Machine

/-! ### The reset input -/

/-- Every field of the state after a reset: the six elements of R280, and the rest as it was. -/
theorem resetElements_eq (s : State) :
    s.resetElements =
      { rxbuf := [], cstate := .idle, resp := none, txbusy := false, linkOpen := false, ovf := false, params := s.params,
        offers := s.offers, results := s.results, history := s.history, freeCount := s.freeCount,
        freeSource := s.freeSource } := rfl

theorem takeOffer_reset (s : State) : takeOffer .reset s = .next s.resetElements := rfl

/-! ### STATUS and RXLEN_RD over the reset values (R32, R33) -/

theorem statusWord_of_idle {s : State} (hc : s.cstate = .idle) (hb : s.txbusy = false) (hl : s.linkOpen = false)
    (ho : s.ovf = false) : statusWord s = 0x00#8 := by
  rw [statusWord, hc, hb, hl, ho]
  decide

theorem rxlenRd_of_empty {s : State} (h : s.rxbuf = []) : rxlenRd s = 0#32 := by
  rw [rxlenRd, h, List.length_nil, Nat.zero_min]

/-- Settles O7: a reset step takes the offer and is `resetElements_eq`; the views follow from the elements; and `State.reset`, which
holds R280's values, is a fixed point. -/
theorem resetSetsEveryElement : Obligations.ResetSetsEveryElement := by
  refine ⟨fun s rest => ?step, fun s => ⟨?status, ?rxlen, ?ready⟩, ?fixed⟩
  case step => rw [step_offer, takeOffer_reset, resetElements_eq]
  case status =>
    exact statusWord_of_idle (resetElements_cstate s) (resetElements_txbusy s) (resetElements_linkOpen s) (resetElements_ovf s)
  case rxlen => exact rxlenRd_of_empty (resetElements_rxbuf s)
  case ready => exact respReady_of_idle (resetElements_cstate s)
  case fixed => exact resetElements_eq State.reset

end Sys2Proof.Machine
end

section
/-! PROOF. The transaction format (30_encoding.md R76, R79 to R82): decoder and encoder agree (O2), the spec's words decode (O1), and what
a step does with an offered operation, with no offer, and with bytes that are not whole (O4 to O6). Everything rests on two inversions:
`operation_eq_some` for the operation maps, `decode_eq_instr` for the length field. -/

namespace Sys2Proof

/-! ### The operation maps (R80, R81) -/

theorem hostOperation_eq_some {opc : Byte} {data : Bytes} {i : Instr} (h : hostOperation opc data = some i) :
    i.port = .host ∧ opcode i = opc ∧ i.data = data := by
  unfold hostOperation at h
  split at h <;> cases h <;> exact ⟨rfl, rfl, rfl⟩

theorem transportOperation_eq_some {evt : Byte} {data : Bytes} {i : Instr} (h : transportOperation evt data = some i) :
    i.port = .transport ∧ opcode i = evt ∧ i.data = data := by
  unfold transportOperation at h
  split at h <;> cases h <;> exact ⟨rfl, rfl, rfl⟩

/-- Each operation stands in its own port's map at its own code, and in no other place. -/
theorem operation_eq_some (p : Port) (opc : Byte) (data : Bytes) (i : Instr) :
    operation p opc data = some i ↔ i.port = p ∧ opcode i = opc ∧ i.data = data := by
  constructor
  · cases p with
    | host => exact hostOperation_eq_some
    | transport => exact transportOperation_eq_some
  · rintro ⟨rfl, rfl, rfl⟩
    cases i <;> rfl

/-! ### The length field (R76) -/

/-- What decodes to an operation is a whole transaction whose code is in the port's map. -/
theorem decode_eq_instr {p : Port} {bytes : Bytes} {i : Instr} (h : decode p bytes = .instr i) :
    ∃ opc data, bytes = opc :: (be16 data.length ++ data) ∧ data.length ≤ 65535 ∧ operation p opc data = some i := by
  unfold decode at h
  split at h
  · next opc hi lo data =>
    split at h
    · cases h
    · next hshort =>
      split at h
      · cases h
      · next hlong =>
        have hlen : data.length = be16Value hi lo := by omega
        split at h
        · next j hj =>
          cases h
          refine ⟨opc, data, ?_, hlen ▸ be16Value_le hi lo, hj⟩
          rw [hlen, be16_be16Value]
          rfl
        · cases h
  · cases h

theorem decode_encode {i : Instr} (h : i.wellFormed = true) : decode i.port (encode i) = .instr i := by
  have hlen : i.data.length ≤ 65535 := of_decide_eq_true h
  rw [encode, decode_whole _ _ _ hlen, (operation_eq_some _ _ _ i).2 ⟨rfl, rfl, rfl⟩]

/-- Settles O2: from the bytes, both inversions name the operation's code, length and data; from the operation, `decode_encode`. -/
theorem decodeAndEncodeAgree : Obligations.DecodeAndEncodeAgree := by
  intro p bytes i
  constructor
  · intro h
    obtain ⟨opc, data, rfl, hlen, hop⟩ := decode_eq_instr h
    obtain ⟨hport, rfl, rfl⟩ := (operation_eq_some p opc data i).1 hop
    exact ⟨decide_eq_true hlen, hport, rfl⟩
  · rintro ⟨hwell, rfl, rfl⟩
    exact decode_encode hwell

/-- Settles O1: each word is the encoding of its operation, and the two offered at the other port are whole with a code outside its
map. -/
theorem specWordsDecode : Obligations.SpecWordsDecode :=
  ⟨decode_encode (i := .encode [0x41#8]) rfl, decode_encode (i := .exchStart [0x05#8, 0x41#8, 0x04#8, 0x40#8]) rfl,
    decode_encode (i := .timeout []) rfl, decode_encode (i := .readStatus []) rfl,
    decode_encode (i := .rxChunk [0x05#8, 0x41#8]) rfl, decode_encode (i := .linkState [0x01#8]) rfl,
    decode_reserved (data := [0x01#8]) (by decide) rfl, decode_reserved (data := [0x41#8]) (by decide) rfl⟩

theorem decode_truncated (p : Port) (code : Byte) {n : Nat} {data : Bytes} (hn : n ≤ 65535) (h : data.length < n) :
    decode p (code :: (be16 n ++ data)) = .truncated := by
  simp only [be16, List.cons_append, List.nil_append, decode, be16Value_be16 n hn, h, if_true]

theorem decode_overlong (p : Port) (code : Byte) {n : Nat} {data : Bytes} (hn : n ≤ 65535) (h : n < data.length) :
    decode p (code :: (be16 n ++ data)) = .overlong := by
  simp only [be16, List.cons_append, List.nil_append, decode, be16Value_be16 n hn, h.not_gt, h, if_false, if_true]

end Sys2Proof

namespace Sys2Proof.Machine

/-! ### What a port does with one offer (20_memory.md R56, 30_encoding.md R82) -/

theorem takeOffer_of_instr {p : Port} {bytes : Bytes} {i : Instr} (s : State) (h : decode p bytes = .instr i) :
    takeOffer (offerAt p bytes) s = exec i s := by
  cases p <;> simp only [offerAt, takeOffer, takeHost, takeTransport, h]

theorem takeOffer_of_truncated {p : Port} {bytes : Bytes} (s : State) (h : decode p bytes = .truncated) :
    takeOffer (offerAt p bytes) s = .refused .truncatedTransaction := by
  cases p <;> simp only [offerAt, takeOffer, takeHost, takeTransport, h]

theorem takeOffer_of_overlong {p : Port} {bytes : Bytes} (s : State) (h : decode p bytes = .overlong) :
    takeOffer (offerAt p bytes) s = .refused .overlongTransaction := by
  cases p <;> simp only [offerAt, takeOffer, takeHost, takeTransport, h]

/-- Settles O4: a step takes the first offer, and the port runs what it decodes to. -/
theorem stepRunsTheOfferedOperation : Obligations.StepRunsTheOfferedOperation := by
  intro s p bytes i rest h
  rw [step_offer, takeOffer_of_instr _ h]

/-- Settles O5: with no offer there is nothing to take. -/
theorem nothingOfferedNothingChanges : Obligations.NothingOfferedNothingChanges := by
  intro s h
  rw [step, stepNext, h]

/-- Settles O6: the operand is compared with the length field before the code is looked at. -/
theorem bytesThatAreNotWholeAreRefused : Obligations.BytesThatAreNotWholeAreRefused := by
  intro s p code n data rest hn
  refine ⟨fun hshort => ?_, fun hlong => ?_⟩ <;> rw [step_offer]
  · exact takeOffer_of_truncated _ (decode_truncated p code hn hshort)
  · exact takeOffer_of_overlong _ (decode_overlong p code hn hlong)

end Sys2Proof.Machine
end

section
/-! PROOF. The reassembler's further statements (41_reassembler.md): waiting (O19; R146), the capacity (O21; R139), noise and then a frame
(O23; R142), a flipped bit (O24; R144), a false anchor (O25; R143), and what an emitted frame decodes to (O28; R109). -/

namespace Sys2Proof.Machine

/-! ### Waiting (R146) -/

/-- Settles O19: the pass stops and leaves the buffer as it is. -/
theorem incompleteCandidateWaits : Obligations.IncompleteCandidateWaits := by
  intro s p hp hbuf
  have hpass : pass s.rxbuf = .stop s.rxbuf := by
    rw [hbuf]
    exact (pass_start p).trans (passFromStart_of_incomplete hp)
  exact process_of_stop hpass

/-! ### The capacity (R139) -/

/-- One received byte makes the buffer that `Process()` leaves at most one byte longer. -/
theorem process_appended_length (s : State) (b : Byte) :
    (process (s.setRxbuf (s.rxbuf ++ [b]))).rxbuf.length ≤ s.rxbuf.length + 1 := by
  obtain ⟨-, hlen⟩ := process_atRest (s.setRxbuf (s.rxbuf ++ [b]))
  simpa using hlen

/-- The overflow drop sets the flag and takes a byte, or finds none. -/
theorem overflowDrop_frame (s : State) :
    (overflowDrop s).ovf = true ∧ (overflowDrop s).rxbuf.length ≤ s.rxbuf.length - 1 := by
  obtain ⟨-, -, hovf, -⟩ := process_frame ((s.setOvf true).setRxbuf (s.rxbuf.drop 1))
  obtain ⟨-, hlen⟩ := process_atRest ((s.setOvf true).setRxbuf (s.rxbuf.drop 1))
  rw [setRxbuf_rxbuf, List.length_drop] at hlen
  exact ⟨hovf, hlen⟩

/-- Settles O21: `Process()` leaves at most `n + 1` bytes, and the one drop is made exactly when it leaves that many. -/
theorem oneOverflowDropIsEnough : Obligations.OneOverflowDropIsEnough := by
  intro s b n hcap hlen
  obtain ⟨-, -, hovf, hpar, -⟩ := process_frame (s.setRxbuf (s.rxbuf ++ [b]))
  have hleft := process_appended_length s b
  have hbyte := rxByte_of_finite (s := s) b (n := n) (by rw [hpar]; exact hcap)
  refine ⟨rxByte s b, rfl, ?_⟩
  change _ ∧ (_ ↔ _ ∨ (process (s.setRxbuf (s.rxbuf ++ [b]))).rxbuf.length = n + 1)
  rw [hbyte]
  generalize process (s.setRxbuf (s.rxbuf ++ [b])) = u at *
  split
  next hover =>
    obtain ⟨hset, hdrop⟩ := overflowDrop_frame u
    have hfull : u.rxbuf.length = n + 1 := by omega
    exact ⟨by omega, by simp [hset, hfull]⟩
  next hfits =>
    have hroom : u.rxbuf.length ≠ n + 1 := by omega
    exact ⟨by omega, by simp [hovf, hroom]⟩

/-! ### Noise and then a frame (R142) -/

/-- A byte behind which `Process()` leaves no more than the capacity is no overflow. -/
theorem rxByte_of_fits {s : State} {b : Byte} (h : overCap s.params (process (s.setRxbuf (s.rxbuf ++ [b]))).rxbuf.length = false) :
    rxByte s b = process (s.setRxbuf (s.rxbuf ++ [b])) := by
  obtain ⟨-, -, -, hpar, -⟩ := process_frame (s.setRxbuf (s.rxbuf ++ [b]))
  rcases rxByte_cases s b with ⟨-, hr⟩ | ⟨hover, -⟩
  · exact hr
  · rw [hpar, setRxbuf_params, h] at hover
    cases hover

/-- Bytes that fit behind the buffer, one by one, do what one run of `Process()` behind all of them does (R140). -/
theorem foldl_rxByte_of_fits (d : Bytes) {s : State} (hfits : overCap s.params (s.rxbuf.length + d.length) = false)
    (hrest : atRest s.rxbuf = true) : d.foldl rxByte s = process (s.setRxbuf (s.rxbuf ++ d)) := by
  induction d generalizing s with
  | nil => rw [List.append_nil]; exact (process_of_atRest hrest).symm
  | cons b d ih =>
    have hleft := process_appended_length s b
    obtain ⟨-, -, -, hpar, -⟩ := process_frame (s.setRxbuf (s.rxbuf ++ [b]))
    obtain ⟨hrest', -⟩ := process_atRest (s.setRxbuf (s.rxbuf ++ [b]))
    rw [List.length_cons] at hfits
    have hbyte := rxByte_of_fits (s := s) (b := b) (overCap_mono (by omega) hfits)
    have hfits' : overCap (process (s.setRxbuf (s.rxbuf ++ [b]))).params
        ((process (s.setRxbuf (s.rxbuf ++ [b]))).rxbuf.length + d.length) = false := by
      rw [hpar]
      exact overCap_mono (by omega) hfits
    rw [List.foldl_cons, hbyte, ih hfits' hrest', process_append, setRxbuf_rxbuf, setRxbuf_setRxbuf, List.append_assoc,
      List.singleton_append]

/-- No byte at all exceeds no capacity. -/
@[simp] theorem overCap_zero (p : Params) : overCap p 0 = false := by
  unfold overCap
  split <;> simp

theorem setRxbuf_of_eq {s : State} {b : Bytes} (h : s.rxbuf = b) : s.setRxbuf b = s := by
  subst h
  rfl

/-- Noise leaves an empty buffer as it is, whatever the capacity. -/
theorem foldl_rxByte_noise {z : Bytes} {s : State} (hbuf : s.rxbuf = []) (hz : startByte ∉ z) : z.foldl rxByte s = s := by
  induction z with
  | nil => rfl
  | cons b z ih =>
    obtain ⟨hb, hz'⟩ := not_or.1 (mt List.mem_cons.2 hz)
    have hproc : process (s.setRxbuf (s.rxbuf ++ [b])) = s := by
      have hpass : pass (s.rxbuf ++ [b]) = .stop [] := pass_of_no_start (by simpa [hbuf] using hb)
      rw [process_of_stop (s := s.setRxbuf _) hpass, setRxbuf_setRxbuf, setRxbuf_of_eq hbuf]
    have hbyte := rxByte_of_fits (s := s) (b := b) (by rw [hproc, hbuf]; exact overCap_zero _)
    rw [List.foldl_cons, hbyte, hproc, ih hz']

/-- A frame alone in the buffer is delivered, and the buffer is empty (R136). -/
theorem process_frameOf {p : Bytes} (s : State) (hp : endByte ∉ p) :
    process (s.setRxbuf (frameOf p)) = routed [frameOf p] (s.setRxbuf []) := by
  have hpass : pass (frameOf p) = .emit (frameOf p) [] := by
    rw [frameOf_eq]
    exact (pass_of_candidate _ [] List.not_mem_nil hp).trans (by rw [if_pos rfl, frameOf_eq])
  rw [process_of_emit (s := s.setRxbuf (frameOf p)) hpass, setRxbuf_setRxbuf, routed_singleton]
  exact process_of_atRest (by rw [deliver_rxbuf]; rfl)

/-- The bytes of a frame before its checksum wait in the buffer (R135). -/
theorem process_frameBody {p : Bytes} (s : State) (hp : endByte ∉ p) :
    process (s.setRxbuf (frameBody p)) = s.setRxbuf (frameBody p) :=
  process_of_atRest (atRest_start (by simpa using hp))

/-- A frame that arrives at an empty buffer is delivered where the capacity admits all of it but the checksum. -/
theorem foldl_rxByte_frameOf {p : Bytes} {s : State} (hbuf : s.rxbuf = []) (hp : endByte ∉ p)
    (hfits : overCap s.params (p.length + 2) = false) : (frameOf p).foldl rxByte s = routed [frameOf p] s := by
  have hlen : s.rxbuf.length + (frameBody p).length = p.length + 2 := by simp [hbuf, frameBody]
  have hbody : (frameBody p).foldl rxByte s = s.setRxbuf (frameBody p) := by
    rw [foldl_rxByte_of_fits _ (by rw [hlen]; exact hfits) (by rw [hbuf]; rfl), hbuf, List.nil_append, process_frameBody s hp]
  have hproc : process ((s.setRxbuf (frameBody p)).setRxbuf ((s.setRxbuf (frameBody p)).rxbuf ++ [xorfold (frameBody p)])) =
      routed [frameOf p] s := by
    rw [setRxbuf_setRxbuf, setRxbuf_rxbuf, ← frameOf, process_frameOf s hp, setRxbuf_of_eq hbuf]
  have hlast := rxByte_of_fits (s := s.setRxbuf (frameBody p)) (b := xorfold (frameBody p))
    (by rw [hproc, routed_rxbuf, hbuf]; exact overCap_zero _)
  rw [frameOf, List.foldl_append, hbody, List.foldl_cons, List.foldl_nil, hlast, hproc, frameOf]

/-- Settles O23: the noise changes nothing, and then the frame arrives at an empty buffer. -/
theorem noiseThenFrameIsDelivered : Obligations.NoiseThenFrameIsDelivered := by
  intro s z p hbuf hz hp hcap
  have hfits : overCap s.params (p.length + 2) = false := by
    obtain hinf | ⟨n, hn, hle⟩ := hcap
    · simp [overCap, hinf]
    · simp only [overCap, hn, decide_eq_false_iff_not]
      omega
  rw [exec_rxChunk, List.foldl_append, foldl_rxByte_noise hbuf hz, foldl_rxByte_frameOf hbuf hp hfits]

/-! ### A flipped bit (R144) -/

/-- Flipping bits of one byte flips them in the fold. -/
theorem xorfold_modify {s : Bytes} {k : Nat} (m : Byte) (h : k < s.length) :
    xorfold (s.modify k (· ^^^ m)) = xorfold s ^^^ m := by
  obtain ⟨l, a, r, hs, -, hm⟩ := List.exists_of_modify (· ^^^ m) h
  rw [hm, hs, xorfold_append, xorfold_append, xorfold_cons, xorfold_cons]
  ac_rfl

theorem twoPow_ne_zero {b : Nat} (h : b < 8) : BitVec.twoPow 8 b ≠ 0#8 := by
  intro hz
  simpa [h] using congrArg (fun v => v.getLsbD b) hz

/-- What stands at one index is changed, and nothing else. -/
theorem modify_append_cons (l r : Bytes) (a : Byte) (f : Byte → Byte) :
    (l ++ a :: r).modify l.length f = l ++ f a :: r := by
  induction l with
  | nil => rfl
  | cons b l ih => rw [List.cons_append, List.length_cons, List.modify_succ_cons, ih, List.cons_append]

/-- A candidate that fills the buffer and does not fold to zero loses its START (R137). -/
theorem process_of_odd_candidate {p : Bytes} {x : Byte} (s : State) (hp : endByte ∉ p)
    (h : xorfold (startByte :: (p ++ endByte :: [x])) ≠ 0#8) :
    process (s.setRxbuf (startByte :: (p ++ endByte :: [x]))) =
      process (s.setRxbuf ((startByte :: (p ++ endByte :: [x])).drop 1)) := by
  have hx : x ≠ xorfold (frameBody p) := by
    intro hx
    have hframe : startByte :: (p ++ endByte :: [x]) = frameBody p ++ [x] := by simp [frameBody]
    exact h (hframe ▸ (xorfold_append_singleton_eq_zero _ _).2 hx)
  exact wrongChecksumDropsOneByte s p x [] hp hx

/-- Settles O24: a flipped START is noise; with any other flip the span is still one candidate, and it folds to the flipped bit. -/
theorem flippedBitIsDetected : Obligations.FlippedBitIsDetected := by
  intro s p k b hp hb hk
  have hm := twoPow_ne_zero hb
  have hfold : xorfold ((frameOf p).modify k (· ^^^ BitVec.twoPow 8 b)) = BitVec.twoPow 8 b := by
    rw [xorfold_modify _ (by rw [length_frameOf]; omega), xorfold_frameOf, BitVec.zero_xor]
  refine ⟨hfold, ?_⟩
  change process (s.setRxbuf _) = process (s.setRxbuf _)
  generalize BitVec.twoPow 8 b = m at *
  obtain rfl | ⟨hk1, hkp, hend⟩ | rfl := hk
  case inl =>
    have hflip : startByte ∉ [startByte ^^^ m] := by
      rw [List.mem_singleton]
      exact fun h => hm (BitVec.xor_right_inj startByte |>.1 (by rw [← h, BitVec.xor_zero]))
    rw [frameOf_eq, List.modify_zero_cons]
    exact process_noise_append (p ++ endByte :: [xorfold (frameBody p)]) s hflip
  case inr.inl =>
    obtain ⟨q, a, r, rfl, hq, -⟩ := List.exists_of_modify (· ^^^ m) (show k - 1 < p.length by omega)
    obtain rfl : k = q.length + 1 := by omega
    have hframe : frameOf (q ++ a :: r) =
        (startByte :: q) ++ a :: (r ++ endByte :: [xorfold (frameBody (q ++ a :: r))]) := by simp [frameOf_eq]
    have hflip : (frameOf (q ++ a :: r)).modify (q.length + 1) (· ^^^ m) =
        startByte :: ((q ++ (a ^^^ m) :: r) ++ endByte :: [xorfold (frameBody (q ++ a :: r))]) := by
      rw [hframe]
      exact (modify_append_cons (startByte :: q) _ a _).trans (by simp)
    have ha : a ^^^ m ≠ endByte := by simpa [hframe, endByte] using hend
    rw [hflip] at hfold ⊢
    have hpayload : endByte ∉ q ++ (a ^^^ m) :: r := by
      simp only [List.mem_append, List.mem_cons, not_or] at hp ⊢
      obtain ⟨hpq, -, hpr⟩ := hp
      exact ⟨hpq, ha.symm, hpr⟩
    exact process_of_odd_candidate s hpayload (by rw [hfold]; exact hm)
  case inr.inr =>
    have hflip : (frameOf p).modify (p.length + 2) (· ^^^ m) =
        startByte :: (p ++ endByte :: [xorfold (frameBody p) ^^^ m]) := by
      have hlen : (frameBody p).length = p.length + 2 := by simp [frameBody]
      rw [frameOf, ← hlen, modify_append_cons (frameBody p)]
      simp [frameBody]
    rw [hflip] at hfold ⊢
    exact process_of_odd_candidate s hp (by rw [hfold]; exact hm)

/-! ### A false anchor (R143) -/

/-- Settles O25: noise and frame are one candidate, whose payload is the noise behind its START and the frame's START and payload; the
frame folds to zero, so the candidate folds to what the noise folds to. -/
theorem falseAnchorIsAcceptedOnZeroParity : Obligations.FalseAnchorIsAcceptedOnZeroParity := by
  intro s y p hy hp
  have hq : endByte ∉ y ++ startByte :: p := by
    simpa [startByte, endByte] using And.intro hy hp
  have hspan : startByte :: y ++ frameOf p = startByte :: ((y ++ startByte :: p) ++ endByte :: [xorfold (frameBody p)]) := by
    simp [frameOf_eq]
  have hbody : startByte :: y ++ frameOf p = frameBody (y ++ startByte :: p) ++ [xorfold (frameBody p)] := by
    simp [frameOf_eq, frameBody]
  have hfold : xorfold (frameBody p) = xorfold (frameBody (y ++ startByte :: p)) ↔ xorfold (startByte :: y) = 0#8 := by
    rw [← xorfold_append_singleton_eq_zero, ← hbody, xorfold_append, xorfold_frameOf, BitVec.xor_zero]
  change process (s.setRxbuf (startByte :: y ++ frameOf p)) =
    if xorfold (startByte :: y) = 0#8 then routed [startByte :: y ++ frameOf p] (s.setRxbuf [])
    else process (s.setRxbuf (y ++ frameOf p))
  split
  next hzero =>
    have hframe : startByte :: y ++ frameOf p = frameOf (y ++ startByte :: p) := by
      rw [hbody, hfold.2 hzero, frameOf]
    rw [hframe, process_frameOf s hq]
  next hodd =>
    rw [hspan]
    have hdrop := wrongChecksumDropsOneByte s _ _ [] hq (mt hfold.1 hodd)
    have hrest : y ++ frameOf p = (y ++ startByte :: p) ++ endByte :: [xorfold (frameBody p)] := by simp [frameOf_eq]
    rw [hrest]
    exact hdrop

/-! ### What an emitted frame decodes to (40_codec.md R109) -/

@[simp] theorem slice_frameOf (p : Bytes) : slice (frameOf p) 1 ((frameOf p).length - 3) = p := by
  simp [slice, frameOf_eq]

/-- A whole frame is the frame of the bytes between its START and its END. -/
theorem exists_payload {c : Bytes} (h : wholeFrame c = true) : ∃ p, c = frameOf p ∧ endByte ∉ p := by
  simp only [wholeFrame, Bool.and_eq_true, beq_iff_eq, Bool.not_eq_true', List.contains_eq_mem, decide_eq_false_iff_not] at h
  exact ⟨_, h⟩

/-- Routing keeps the events there were, and puts into the history nothing but routed frames (42_correlator.md R177). -/
theorem routed_history (fs : List Bytes) (s : State) :
    ∃ later, (routed fs s).history = s.history ++ later.map .unsol ∧ later ⊆ fs := by
  unfold routed
  split
  · next c later _ => exact ⟨later, rfl, List.subset_cons_self c later⟩
  · exact ⟨_, rfl, List.Subset.refl _⟩

/-- All that routing does to the exchange: the first frame goes to one that waits. -/
theorem routed_exchange (fs : List Bytes) (s : State) :
    ((routed fs s).cstate = s.cstate ∧ (routed fs s).resp = s.resp) ∨
    ∃ c ∈ fs, s.cstate = .awaiting ∧ (routed fs s).cstate = .fulfilled ∧ (routed fs s).resp = some c := by
  unfold routed
  split
  · next c later hc => exact .inr ⟨c, List.mem_cons_self, hc, rfl, rfl⟩
  · exact .inl ⟨rfl, rfl⟩

theorem receive_history (out : Bytes × List Bytes × Bool) (s : State) :
    ∃ later, (s.receive out).history = s.history ++ later.map .unsol ∧ later ⊆ out.2.1 :=
  routed_history out.2.1 ((s.setRxbuf out.1).setOvf (s.ovf || out.2.2))

theorem receive_exchange (out : Bytes × List Bytes × Bool) (s : State) :
    ((s.receive out).cstate = s.cstate ∧ (s.receive out).resp = s.resp) ∨
    ∃ c ∈ out.2.1, s.cstate = .awaiting ∧ (s.receive out).cstate = .fulfilled ∧ (s.receive out).resp = some c :=
  routed_exchange out.2.1 ((s.setRxbuf out.1).setOvf (s.ovf || out.2.2))

theorem execRxChunk_receive {d : Bytes} {s t : State} (h : execRxChunk d s = .next t) :
    t = s.receive (received s.params s.rxbuf d) :=
  (execRxChunk_next h).trans (foldl_rxByte_eq_receive d s)

/-- Every frame that a chunk puts out is one that a pass emitted. -/
theorem mem_received_of_emitted {s t : State} {d c : Bytes} (h : exec (.rxChunk d) s = .next t)
    (hc : .unsol c ∈ t.history.drop s.history.length ∨ (s.cstate = .awaiting ∧ t.cstate = .fulfilled ∧ t.resp = some c)) :
    c ∈ (received s.params s.rxbuf d).2.1 := by
  obtain rfl := execRxChunk_receive h
  obtain hevent | ⟨hs, ht, hresp⟩ := hc
  · obtain ⟨later, hhist, hsub⟩ := receive_history (received s.params s.rxbuf d) s
    rw [hhist, List.drop_left] at hevent
    exact hsub (by simpa using hevent)
  · rcases receive_exchange (received s.params s.rxbuf d) s with ⟨hsame, -⟩ | ⟨c', hmem, -, -, hresp'⟩
    · exact absurd (hsame.symm.trans ht) (by simp [hs])
    · obtain rfl : c' = c := Option.some.inj (hresp'.symm.trans hresp)
      exact hmem

/-- Settles O28: an emitted frame is whole, so it is the frame of a payload without END, and DECODE gives that payload back. -/
theorem emittedFramesDecode : Obligations.EmittedFramesDecode := by
  intro s t d c h hc
  have hwhole := received_wholeFrame s.params s.rxbuf d c (mem_received_of_emitted h hc)
  obtain ⟨p, rfl, hp⟩ := exists_payload hwhole
  have hfirst : firstIndex (frameOf p) endByte 1 = some (p.length + 1) := by
    rw [frameOf_eq, firstIndex_cons_one, firstIndex_append_cons p _ endByte hp, Option.map_some]
  refine ⟨by simp, by rw [frameOf_eq]; rfl, ?_, xorfold_frameOf p, fun u hr hmax => ?_⟩
  · rw [length_frameOf]
    exact hfirst
  · rw [slice_frameOf]
    exact exec_decode_frameOf_of_no_end hr (by rw [length_frameOf] at hmax; omega) hp

end Sys2Proof.Machine
end

section
/-! PROOF. What the operations do, all together. `Effect` lists once everything that any operation can do to a state, and
`exec_effect` says that the list is complete; the statements about every operation then read it off: CSTATE's transition table and the
single flight (O36, O37), results and errors (O45, O46), the flags (O47), and the outputs (O48). -/

namespace Sys2Proof.Machine

/-! ### What a chunk leaves unchanged (41_reassembler.md R130, R139) -/

theorem receive_frame (out : Bytes × List Bytes × Bool) (s : State) :
    (s.receive out).txbusy = s.txbusy ∧ (s.receive out).linkOpen = s.linkOpen ∧ (s.receive out).offers = s.offers ∧
      (s.receive out).results = s.results ∧ (s.receive out).freeSource = s.freeSource := by
  unfold State.receive routed
  split <;> exact ⟨rfl, rfl, rfl, rfl, rfl⟩

/-- Only a finite capacity overflows. -/
theorem received_overflow {p : Params} {buf d : Bytes} (h : (received p buf d).2.2 = true) : p.rxBufCap ≠ .inf := by
  induction d generalizing buf with
  | nil => cases h
  | cons b d ih =>
    rcases Bool.or_eq_true_iff.1 h with hnow | hlater
    · simp only [receivedByte] at hnow
      split at hnow
      · next hover => exact overCap_finite hover
      · cases hnow
    · exact ih hlater

/-! ### Everything an operation can do -/

/-- The codes of the failures that change nothing but the result (60_exceptions.md R250). -/
def RC.IsRefusal (rc : RC) : Prop := rc ≠ .ok ∧ rc ≠ .timedOut ∧ rc ≠ .transportWriteError

/-- The two operations that end an exchange (42_correlator.md R179, R180). -/
def EndsExchange (i : Instr) : Prop := i = .collect [] ∨ i = .timeout []

/-- What an operation can do to a state. Host operations: refuse, reply from the state as it is, clear OVF, start an exchange, give it
up, return its frame or its write error. Transport events: nothing, a chunk, a write returned or failed, a level. -/
inductive Effect (s : State) : Instr → State → Prop where
  | refuse {i : Instr} (hp : i.port = .host) (rc : RC) (hrc : rc.IsRefusal) : Effect s i (s.raise rc)
  | reply {i : Instr} (hp : i.port = .host) (data : Bytes) : Effect s i (s.respond .ok data)
  | clear : Effect s (.clearOvf []) ((s.setOvf false).respond .ok [])
  | start (f : Bytes) (hc : s.cstate = .idle) (hb : s.txbusy = false) (hl : s.linkOpen = true) :
      Effect s (.exchStart f) ((((s.setCstate .awaiting).setTxbusy true).emit (.txw f)).respond .ok [])
  | giveUp (hb : s.txbusy = false) (hc : s.cstate = .awaiting) : Effect s (.timeout []) ((s.setCstate .idle).raise .timedOut)
  | returnFrame {i : Instr} (hi : EndsExchange i) (hb : s.txbusy = false) (hc : s.cstate = .fulfilled) (c : Bytes)
      (hr : s.resp = some c) : Effect s i (((s.setResp none).setCstate .idle).respond .ok c)
  | writeError {i : Instr} (hi : EndsExchange i) (hb : s.txbusy = false) (hc : s.cstate = .wfailed) :
      Effect s i ((s.setCstate .idle).raise .transportWriteError)
  | ignore {i : Instr} (hp : i.port = .transport) : Effect s i s
  | receive (d : Bytes) : Effect s (.rxChunk d) (s.receive (received s.params s.rxbuf d))
  | written (d : Bytes) (hb : s.txbusy = true) : Effect s (.txDoneOk d) (s.setTxbusy false)
  | writeFailed (d : Bytes) (hb : s.txbusy = true) :
      Effect s (.txDoneFail d) (((s.setTxbusy false).setResp none).setCstate .wfailed)
  | level (v : Bool) : Effect s (.linkState [BitVec.ofNat 8 v.toNat]) (s.setLinkOpen v)

theorem EndsExchange.port {i : Instr} (h : EndsExchange i) : i.port = .host := by
  rcases h with rfl | rfl <;> rfl

theorem execDecode_effect {d : Bytes} {s t : State} (h : execDecode d s = .next t) : Effect s (.decode d) t := by
  rcases execDecode_next h with ⟨-, p, -, rfl⟩ | ⟨-, rc, hrc, rfl⟩ | ⟨-, rfl⟩
  · exact .reply rfl p
  · refine .refuse rfl rc ?_
    rcases payloadOf_error hrc with rfl | rfl <;> simp [RC.IsRefusal]
  · exact .refuse rfl _ (by simp [RC.IsRefusal])

theorem execExchStart_effect {f : Bytes} {s t : State} (h : execExchStart f s = .next t) : Effect s (.exchStart f) t := by
  rcases execExchStart_next h with ⟨-, rfl⟩ | ⟨-, -, rfl⟩ | ⟨-, -, -, -, rfl⟩ | ⟨-, hc, hb, hl, rfl⟩
  · exact .refuse rfl _ (by simp [RC.IsRefusal])
  · exact .refuse rfl _ (by simp [RC.IsRefusal])
  · exact .refuse rfl _ (by simp [RC.IsRefusal])
  · exact .start f hc hb hl

theorem execCollect_effect {d : Bytes} {s t : State} (h : execCollect d s = .next t) : Effect s (.collect d) t := by
  rcases execCollect_next h with ⟨-, rfl⟩ | ⟨-, -, rfl⟩ | ⟨-, -, -, rfl⟩ | ⟨-, -, -, rfl⟩ | ⟨rfl, hb, hc, c, hr, rfl⟩ |
    ⟨rfl, hb, hc, rfl⟩
  · exact .refuse rfl _ (by simp [RC.IsRefusal])
  · exact .refuse rfl _ (by simp [RC.IsRefusal])
  · exact .refuse rfl _ (by simp [RC.IsRefusal])
  · exact .refuse rfl _ (by simp [RC.IsRefusal])
  · exact .returnFrame (.inl rfl) hb hc c hr
  · exact .writeError (.inl rfl) hb hc

theorem execTimeout_effect {d : Bytes} {s t : State} (h : execTimeout d s = .next t) : Effect s (.timeout d) t := by
  rcases execTimeout_next h with ⟨-, rfl⟩ | ⟨-, -, rfl⟩ | ⟨-, -, -, rfl⟩ | ⟨rfl, hb, hc, rfl⟩ | ⟨rfl, hb, hc, c, hr, rfl⟩ |
    ⟨rfl, hb, hc, rfl⟩
  · exact .refuse rfl _ (by simp [RC.IsRefusal])
  · exact .refuse rfl _ (by simp [RC.IsRefusal])
  · exact .refuse rfl _ (by simp [RC.IsRefusal])
  · exact .giveUp hb hc
  · exact .returnFrame (.inr rfl) hb hc c hr
  · exact .writeError (.inr rfl) hb hc

theorem execLinkState_effect {d : Bytes} {s t : State} (h : execLinkState d s = .next t) : Effect s (.linkState d) t := by
  rcases execLinkState_next h with ⟨v, hv, rfl⟩ | ⟨-, rfl⟩
  · rcases linkLevel_some hv with ⟨rfl, rfl⟩ | ⟨rfl, rfl⟩
    · exact .level false
    · exact .level true
  · exact .ignore rfl

/-- The list is complete. -/
theorem exec_effect {i : Instr} {s t : State} (h : exec i s = .next t) : Effect s i t := by
  cases i with
  | bcc d => obtain rfl := execBcc_next h; exact .reply rfl _
  | encode d =>
    rcases execEncode_next h with ⟨-, rfl⟩ | ⟨-, rfl⟩
    · exact .reply rfl _
    · exact .refuse rfl _ (by simp [RC.IsRefusal])
  | decode d => exact execDecode_effect h
  | exchStart d => exact execExchStart_effect h
  | collect d => exact execCollect_effect h
  | timeout d => exact execTimeout_effect h
  | readStatus d =>
    rcases execReadStatus_next h with ⟨-, rfl⟩ | ⟨-, rfl⟩
    · exact .reply rfl _
    · exact .refuse rfl _ (by simp [RC.IsRefusal])
  | clearOvf d =>
    rcases execClearOvf_next h with ⟨rfl, rfl⟩ | ⟨-, rfl⟩
    · exact .clear
    · exact .refuse rfl _ (by simp [RC.IsRefusal])
  | rxChunk d => obtain rfl := execRxChunk_receive h; exact .receive d
  | rxFault d => cases h; exact .ignore rfl
  | txDoneOk d =>
    rcases execTxDoneOk_next (d := d) h with ⟨hb, rfl⟩ | ⟨-, rfl⟩
    · exact .written d hb
    · exact .ignore rfl
  | txDoneFail d =>
    rcases execTxDoneFail_next (d := d) h with ⟨hb, rfl⟩ | ⟨-, rfl⟩
    · exact .writeFailed d hb
    · exact .ignore rfl
  | linkState d => exact execLinkState_effect h

/-! ### CSTATE (42_correlator.md R170, R188) -/

/-- Settles O36: the effects that write CSTATE are the rows of the table; RX_CHUNK's row is a delivery to the waiting exchange. -/
theorem cstateChangesOnlyByItsTable : Obligations.CstateChangesOnlyByItsTable := by
  intro i s t hbusy h hne
  cases exec_effect h with
  | refuse | reply | clear | ignore | written | level => exact absurd rfl hne
  | start f hc hb hl => exact .inl ⟨hc, rfl, hb, hl, rfl, f, rfl, rfl⟩
  | receive d =>
    rcases receive_exchange (received s.params s.rxbuf d) s with ⟨hsame, -⟩ | ⟨c, hmem, hc, hc', hr⟩
    · exact absurd hsame hne
    · exact .inr (.inl ⟨hc, hc', ⟨d, rfl⟩, c, hr, received_wholeFrame _ _ _ c hmem⟩)
  | writeFailed d hb => exact .inr (.inr (.inl ⟨(busyInExchange_iff s).1 hbusy hb, rfl, hb, rfl, d, rfl⟩))
  | giveUp hb hc => exact .inr (.inr (.inr (.inl ⟨hc, rfl, hb, rfl, rfl⟩)))
  | returnFrame hi hb hc c hr => exact .inr (.inr (.inr (.inr (.inl ⟨hc, rfl, hb, hi, _, c, hr, rfl⟩))))
  | writeError hi hb hc => exact .inr (.inr (.inr (.inr (.inr ⟨hc, rfl, hb, hi, rfl⟩))))

/-- Settles O37: EXCH_START's first state check fails outside IDLE, and only the three ends of an exchange reach IDLE. -/
theorem singleFlight : Obligations.SingleFlight := by
  intro s hs
  refine ⟨fun f hf => ?pending, fun i t h ht => ?ended⟩
  case pending => rw [exec_exchStart_of_fits hf, if_pos (.inl hs)]
  case ended =>
    cases exec_effect h with
    | refuse | reply | clear | ignore | written | level => exact absurd ht hs
    | start | writeFailed => cases ht
    | receive d =>
      rcases receive_exchange (received s.params s.rxbuf d) s with ⟨hsame, -⟩ | ⟨c, -, -, hc', -⟩
      · exact absurd (hsame.symm.trans ht) hs
      · cases hc'.symm.trans ht
    | giveUp => exact ⟨.inr rfl, _, rfl, .inr (.inl rfl)⟩
    | returnFrame hi => exact ⟨hi, _, rfl, .inl rfl⟩
    | writeError hi => exact ⟨hi, _, rfl, .inr (.inr rfl)⟩

/-! ### Results (30_encoding.md R76, R77, 60_exceptions.md R250) -/

/-- Settles O45: the effects of Host operations end in one `respond` or `raise`, those of Transport events in none. -/
theorem everyHostOperationReturnsOneResult : Obligations.EveryHostOperationReturnsOneResult := by
  intro i s t h
  cases exec_effect h with
  | refuse hp => exact ⟨by simp [hp], fun _ => ⟨_, rfl, fun _ => ⟨rfl, rfl⟩⟩⟩
  | giveUp => exact ⟨by simp [Instr.port], fun _ => ⟨_, rfl, fun _ => ⟨rfl, rfl⟩⟩⟩
  | writeError hi => exact ⟨by simp [hi.port], fun _ => ⟨_, rfl, fun _ => ⟨rfl, rfl⟩⟩⟩
  | reply hp => exact ⟨by simp [hp], fun _ => ⟨_, rfl, fun hne => absurd rfl hne⟩⟩
  | clear | start => exact ⟨by simp [Instr.port], fun _ => ⟨_, rfl, fun hne => absurd rfl hne⟩⟩
  | returnFrame hi => exact ⟨by simp [hi.port], fun _ => ⟨_, rfl, fun hne => absurd rfl hne⟩⟩
  | ignore hp => exact ⟨fun _ => rfl, by simp [hp]⟩
  | receive d =>
    obtain ⟨-, -, -, hres, -⟩ := receive_frame (received s.params s.rxbuf d) s
    exact ⟨fun _ => hres, by simp [Instr.port]⟩
  | written | writeFailed | level => exact ⟨fun _ => rfl, by simp [Instr.port]⟩

/-- Settles O46: the appended result names the effect: a refusal, a reply with `OK`, or one of the two failed ends of an exchange. -/
theorem errorsChangeOnlyWhatTheTableSays : Obligations.ErrorsChangeOnlyWhatTheTableSays := by
  intro i s t r hp h hr
  cases exec_effect h with
  | refuse _ rc hrc =>
    obtain rfl := List.singleton_inj.1 (List.append_cancel_left hr)
    obtain ⟨-, htimed, hwrite⟩ := hrc
    exact ⟨fun hcode => absurd hcode (not_or.2 ⟨htimed, hwrite⟩), fun _ _ _ => raise_eq rc s⟩
  | reply | clear | start | returnFrame =>
    obtain rfl := List.singleton_inj.1 (List.append_cancel_left hr)
    exact ⟨by simp, fun hok => absurd rfl hok⟩
  | giveUp =>
    obtain rfl := List.singleton_inj.1 (List.append_cancel_left hr)
    exact ⟨fun _ => raise_eq _ _, fun _ htimed => absurd rfl htimed⟩
  | writeError =>
    obtain rfl := List.singleton_inj.1 (List.append_cancel_left hr)
    exact ⟨fun _ => raise_eq _ _, fun _ _ hwrite => absurd rfl hwrite⟩
  | ignore hp' => cases hp'.symm.trans hp
  | receive | written | writeFailed | level => cases hp

/-! ### Flags, parameters, offers (10_state.md R22, R31, R35) -/

/-- What no operation changes (R35; log 7). -/
theorem exec_constant {i : Instr} {s t : State} (h : exec i s = .next t) :
    t.params = s.params ∧ t.offers = s.offers ∧ t.freeSource = s.freeSource := by
  cases exec_effect h with
  | receive d =>
    obtain ⟨-, -, hoff, -, hsrc⟩ := receive_frame (received s.params s.rxbuf d) s
    exact ⟨receive_params _ s, hoff, hsrc⟩
  | _ => exact ⟨rfl, rfl, rfl⟩

/-- TXBUSY: EXCH_START sets it, the two answers to a write clear it (R27). -/
theorem exec_txbusy {i : Instr} {s t : State} (h : exec i s = .next t) :
    t.txbusy = s.txbusy ∨ (t.txbusy = true ∧ ∃ f, i = .exchStart f) ∨
      (t.txbusy = false ∧ ∃ d, i = .txDoneOk d ∨ i = .txDoneFail d) := by
  cases exec_effect h with
  | start f => exact .inr (.inl ⟨rfl, f, rfl⟩)
  | written d => exact .inr (.inr ⟨rfl, d, .inl rfl⟩)
  | writeFailed d => exact .inr (.inr ⟨rfl, d, .inr rfl⟩)
  | receive d =>
    obtain ⟨hbusy, -⟩ := receive_frame (received s.params s.rxbuf d) s
    exact .inl hbusy
  | _ => exact .inl rfl

/-- LINK_OPEN: LINK_STATE with one of the two levels (R28). -/
theorem exec_linkOpen {i : Instr} {s t : State} (h : exec i s = .next t) :
    t.linkOpen = s.linkOpen ∨ (t.linkOpen = true ∧ i = .linkState [0x01#8]) ∨ (t.linkOpen = false ∧ i = .linkState [0x00#8]) := by
  cases exec_effect h with
  | level v =>
    cases v with
    | false => exact .inr (.inr ⟨rfl, rfl⟩)
    | true => exact .inr (.inl ⟨rfl, rfl⟩)
  | receive d =>
    obtain ⟨-, hlink, -⟩ := receive_frame (received s.params s.rxbuf d) s
    exact .inl hlink
  | _ => exact .inl rfl

/-- OVF: an overflow sets it, CLEAR_OVF clears it (R29). -/
theorem exec_ovf {i : Instr} {s t : State} (h : exec i s = .next t) :
    t.ovf = s.ovf ∨ (t.ovf = true ∧ s.params.rxBufCap ≠ .inf ∧ ∃ d, i = .rxChunk d) ∨ (t.ovf = false ∧ i = .clearOvf []) := by
  cases exec_effect h with
  | clear => exact .inr (.inr ⟨rfl, rfl⟩)
  | receive d =>
    rw [receive_ovf]
    cases hover : (received s.params s.rxbuf d).2.2 with
    | false => exact .inl (Bool.or_false _)
    | true => exact .inr (.inl ⟨Bool.or_true _, received_overflow hover, d, rfl⟩)
  | _ => exact .inl rfl

/-- RXBUF: RX_CHUNK (R22). -/
theorem exec_rxbuf {i : Instr} {s t : State} (h : exec i s = .next t) : t.rxbuf = s.rxbuf ∨ ∃ d, i = .rxChunk d := by
  cases exec_effect h with
  | receive d => exact .inr ⟨d, rfl⟩
  | _ => exact .inl rfl

/-- Settles O47: one lemma per flag, and what no operation changes. -/
theorem flagsChangeOnlyByTheirOperations : Obligations.FlagsChangeOnlyByTheirOperations := by
  intro i s t h
  obtain ⟨hpar, hoff, -⟩ := exec_constant h
  exact ⟨(exec_txbusy h).resolve_left, (exec_linkOpen h).resolve_left, (exec_ovf h).resolve_left, (exec_rxbuf h).resolve_left,
    hpar, hoff⟩

/-! ### Outputs (20_memory.md R53, 42_correlator.md R181) -/

/-- An operation adds events and results behind those there were. -/
theorem exec_outputs {i : Instr} {s t : State} (h : exec i s = .next t) :
    s.history <+: t.history ∧ s.results <+: t.results := by
  cases exec_effect h with
  | refuse | reply | clear | giveUp | returnFrame | writeError => exact ⟨List.prefix_rfl, List.prefix_append _ _⟩
  | start => exact ⟨List.prefix_append _ _, List.prefix_append _ _⟩
  | receive d =>
    obtain ⟨later, hhist, -⟩ := receive_history (received s.params s.rxbuf d) s
    obtain ⟨-, -, -, hres, -⟩ := receive_frame (received s.params s.rxbuf d) s
    exact ⟨hhist ▸ List.prefix_append _ _, hres ▸ List.prefix_rfl⟩
  | ignore | written | writeFailed | level => exact ⟨List.prefix_rfl, List.prefix_rfl⟩

theorem takeOffer_outputs {o : Offer} {s t : State} (h : takeOffer o s = .next t) :
    s.history <+: t.history ∧ s.results <+: t.results := by
  rcases takeOffer_next h with ⟨_, _, -, -, hi⟩ | ⟨_, -, -, rfl⟩ | ⟨_, _, -, -, hi⟩ | ⟨_, -, -, rfl⟩ | ⟨-, rfl⟩
  · exact exec_outputs hi
  · exact ⟨List.prefix_rfl, List.prefix_append _ _⟩
  · exact exec_outputs hi
  · exact ⟨List.prefix_rfl, List.prefix_rfl⟩
  · exact ⟨List.prefix_rfl, List.prefix_rfl⟩

/-- Settles O48: a step takes nothing, or one offer, and no offer takes an output back. -/
theorem outputsAreNeverRetracted : Obligations.OutputsAreNeverRetracted := by
  intro s t h
  rcases step_next h with ⟨-, rfl⟩ | ⟨o, rest, -, ho⟩
  · exact ⟨List.prefix_rfl, List.prefix_rfl⟩
  · exact takeOffer_outputs (s := s.setOffers rest) ho

end Sys2Proof.Machine
end

section
/-! PROOF. What holds in every state: STATUS's fields and the codes' numbers (O39, O44; 10_state.md R32, 60_exceptions.md R250), the
invariant after reset (O50), completion (O35, O51; 20_memory.md R61), and that the line's bit order is never read (O52; 00_scope.md
R9). -/

namespace Sys2Proof.Machine

/-! ### STATUS and the numbers of the codes (R32, R250) -/

/-- Bits 1..0 of STATUS are CSTATE's. -/
theorem setWidth_statusWord (s : State) : (statusWord s).setWidth 2 = s.cstate.code := by
  rw [statusWord, BitVec.setWidth_append]
  simp

/-- Settles O39: the low two bits as a number, and each other bit at its place in the concatenation. -/
theorem statusWordLayout : Obligations.StatusWordLayout := by
  intro s
  refine ⟨?_, ?_⟩
  · calc (statusWord s).toNat % 4
      _ = ((statusWord s).setWidth 2).toNat := by rw [BitVec.toNat_setWidth]
      _ = s.cstate.code.toNat := by rw [setWidth_statusWord]
      _ = _ := by cases s.cstate <;> rfl
  · simp only [statusWord, BitVec.getLsbD_append]
    simp

/-- Settles O44: the table of R250, row by row. -/
theorem resultCodeNumbers : Obligations.ResultCodeNumbers :=
  ⟨rfl, rfl, rfl, rfl, rfl, rfl, rfl, rfl, rfl, rfl, rfl, rfl⟩

/-! ### After reset (70_reset_and_hazards.md R280) -/

/-- Settles O50: `State.reset` is its own reset, and its parameters are in their ranges. -/
theorem resetStateHasTheInvariant : Obligations.ResetStateHasTheInvariant :=
  invariant_resetElements (s := State.reset) rfl

/-! ### Completion (20_memory.md R61) -/

/-- COLLECT stops where R36 (a) is broken (log 8). -/
theorem exec_collect_of_no_response {s : State} (hb : s.txbusy = false) (hc : s.cstate = .fulfilled) (hr : s.resp = none) :
    exec (.collect []) s = .fault .respAbsent := by
  simp only [exec, execCollect, withShape_empty_nil, hb, Bool.false_eq_true, if_false, hc, returnResponse, hr]

/-- Settles O35: TIMEOUT is COLLECT outside AWAITING. -/
theorem fulfilledWithoutResponseStops : Obligations.FulfilledWithoutResponseStops := by
  intro s hb hc hr
  have hcollect := exec_collect_of_no_response hb hc hr
  exact ⟨hcollect, (exec_timeout_eq_collect (.inr (by simp [hc]))).trans hcollect⟩

/-- The outcome is a next state. -/
def Completes (o : StepOutcome) : Prop := ∃ t, o = .next t

theorem completes_withShape {sh : Shape} {data : Bytes} {s : State} {k : StepOutcome} (h : Completes k) :
    Completes (withShape sh data s k) := by
  unfold withShape
  split
  · exact h
  · exact ⟨_, rfl⟩

theorem completes_ite {c : Prop} [Decidable c] {a b : StepOutcome} (ha : Completes a) (hb : Completes b) :
    Completes (if c then a else b) := by
  split
  · exact ha
  · exact hb

theorem completes_execDecode (d : Bytes) (s : State) : Completes (execDecode d s) := by
  refine completes_withShape ?_
  cases payloadOf d <;> exact ⟨_, rfl⟩

theorem completes_returnResponse {s : State} (h : respMatches s = true) (hc : s.cstate = .fulfilled) :
    Completes (returnResponse s) := by
  obtain ⟨r, hr⟩ := exists_resp_of_fulfilled h hc
  exact ⟨_, by rw [returnResponse, hr]⟩

theorem completes_execCollect (d : Bytes) {s : State} (h : respMatches s = true) : Completes (execCollect d s) := by
  refine completes_withShape (completes_ite ⟨_, rfl⟩ ?_)
  cases hc : s.cstate with
  | fulfilled => exact completes_returnResponse h hc
  | idle | awaiting | wfailed => exact ⟨_, rfl⟩

theorem completes_execTimeout (d : Bytes) {s : State} (h : respMatches s = true) : Completes (execTimeout d s) := by
  refine completes_withShape (completes_ite ⟨_, rfl⟩ ?_)
  cases hc : s.cstate with
  | fulfilled => exact completes_returnResponse h hc
  | idle | awaiting | wfailed => exact ⟨_, rfl⟩

theorem completes_execLinkState (d : Bytes) (s : State) : Completes (execLinkState d s) := by
  unfold execLinkState
  cases linkLevel d <;> exact ⟨_, rfl⟩

/-- Every operation completes where R36 (a) holds; only COLLECT and TIMEOUT need it. -/
theorem completes_exec (i : Instr) {s : State} (h : respMatches s = true) : Completes (exec i s) := by
  cases i with
  | bcc | rxChunk | rxFault => exact ⟨_, rfl⟩
  | encode | readStatus | clearOvf => exact completes_withShape ⟨_, rfl⟩
  | decode d => exact completes_execDecode d s
  | exchStart => exact completes_withShape (completes_ite ⟨_, rfl⟩ (completes_ite ⟨_, rfl⟩ ⟨_, rfl⟩))
  | collect d => exact completes_execCollect d h
  | timeout d => exact completes_execTimeout d h
  | txDoneOk | txDoneFail => exact completes_ite ⟨_, rfl⟩ ⟨_, rfl⟩
  | linkState d => exact completes_execLinkState d s

/-- A whole transaction is an operation of the port or reserved there, and either is answered (30_encoding.md R82). -/
theorem takeOffer_whole (p : Port) (code : Byte) {data : Bytes} {s : State} (hlen : data.length ≤ 65535)
    (h : respMatches s = true) :
    ∃ t, takeOffer (offerAt p (code :: (be16 data.length ++ data))) s = .next t ∧ t.offers = s.offers := by
  cases hop : operation p code data with
  | some i =>
    obtain ⟨t, ht⟩ := completes_exec i h
    obtain ⟨-, hoff, -⟩ := exec_constant ht
    have hdec : decode p (code :: (be16 data.length ++ data)) = .instr i := by rw [decode_whole p code data hlen, hop]
    exact ⟨t, (takeOffer_of_instr s hdec).trans ht, hoff⟩
  | none =>
    have hdec := decode_reserved hlen hop
    cases p with
    | host => exact ⟨_, takeOffer_host_reserved s hdec, rfl⟩
    | transport => exact ⟨_, takeOffer_transport_reserved s hdec, rfl⟩

/-- Settles O51: the step takes the offer, and the invariant holds R36 (a). -/
theorem everyWholeTransactionCompletes : Obligations.EveryWholeTransactionCompletes := by
  intro s hinv
  obtain ⟨-, hex⟩ := (invariant_iff s).1 hinv
  obtain ⟨hresp, -⟩ := (exchangeOk_iff s).1 hex
  refine ⟨fun p code data rest hlen => ?_, fun rest => ⟨_, step_offer .reset rest s, rfl⟩⟩
  rw [step_offer]
  exact takeOffer_whole p code (s := s.setOffers rest) hlen hresp

/-! ### The line's bit order (00_scope.md R9) -/

theorem withShape_withBitOrder {sh : Shape} {data : Bytes} {s : State} {b : BitOrder} {k k' : StepOutcome}
    (h : k' = mapNext (withBitOrder b) k) :
    withShape sh data (withBitOrder b s) k' = mapNext (withBitOrder b) (withShape sh data s k) := by
  have hshape : shapeOk sh (withBitOrder b s).params data = shapeOk sh s.params data := by cases sh <;> rfl
  unfold withShape
  rw [hshape, h]
  split <;> rfl

theorem mapNext_ite (f : State → State) {c : Prop} [Decidable c] (x y : StepOutcome) :
    mapNext f (if c then x else y) = if c then mapNext f x else mapNext f y :=
  apply_ite (mapNext f) c x y

theorem returnResponse_withBitOrder (b : BitOrder) (s : State) :
    returnResponse (withBitOrder b s) = mapNext (withBitOrder b) (returnResponse s) := by
  have hresp : (withBitOrder b s).resp = s.resp := rfl
  unfold returnResponse
  rw [hresp]
  cases s.resp <;> rfl

theorem execDecode_withBitOrder (d : Bytes) (b : BitOrder) (s : State) :
    execDecode d (withBitOrder b s) = mapNext (withBitOrder b) (execDecode d s) := by
  refine withShape_withBitOrder ?_
  cases payloadOf d <;> rfl

theorem execExchStart_withBitOrder (f : Bytes) (b : BitOrder) (s : State) :
    execExchStart f (withBitOrder b s) = mapNext (withBitOrder b) (execExchStart f s) := by
  refine withShape_withBitOrder ?_
  rw [mapNext_ite, mapNext_ite]
  rfl

theorem execCollect_withBitOrder (d : Bytes) (b : BitOrder) (s : State) :
    execCollect d (withBitOrder b s) = mapNext (withBitOrder b) (execCollect d s) := by
  refine withShape_withBitOrder ?_
  have hc : (withBitOrder b s).cstate = s.cstate := rfl
  rw [mapNext_ite, hc, returnResponse_withBitOrder]
  cases s.cstate <;> rfl

theorem execTimeout_withBitOrder (d : Bytes) (b : BitOrder) (s : State) :
    execTimeout d (withBitOrder b s) = mapNext (withBitOrder b) (execTimeout d s) := by
  refine withShape_withBitOrder ?_
  have hc : (withBitOrder b s).cstate = s.cstate := rfl
  rw [mapNext_ite, hc, returnResponse_withBitOrder]
  cases s.cstate <;> rfl

/-- The reassembler reads of the parameters only the capacity (R139). -/
theorem received_withBitOrder (b : BitOrder) (p : Params) (buf d : Bytes) :
    received { p with lineBitOrder := b } buf d = received p buf d := by
  induction d generalizing buf with
  | nil => rfl
  | cons x d ih =>
    have hbyte : receivedByte { p with lineBitOrder := b } buf x = receivedByte p buf x := rfl
    rw [received, received, hbyte, ih]

theorem receive_withBitOrder (b : BitOrder) (out : Bytes × List Bytes × Bool) (s : State) :
    (withBitOrder b s).receive out = withBitOrder b (s.receive out) := by
  have hc : (((withBitOrder b s).setRxbuf out.1).setOvf ((withBitOrder b s).ovf || out.2.2)).cstate =
      ((s.setRxbuf out.1).setOvf (s.ovf || out.2.2)).cstate := rfl
  unfold State.receive routed
  rw [hc]
  split <;> rfl

theorem execRxChunk_withBitOrder (d : Bytes) (b : BitOrder) (s : State) :
    execRxChunk d (withBitOrder b s) = mapNext (withBitOrder b) (execRxChunk d s) := by
  have hout : received (withBitOrder b s).params (withBitOrder b s).rxbuf d = received s.params s.rxbuf d :=
    received_withBitOrder b s.params s.rxbuf d
  simp only [execRxChunk, foldl_rxByte_eq_receive, mapNext, receive_withBitOrder, hout]

theorem execTxDoneOk_withBitOrder (d : Bytes) (b : BitOrder) (s : State) :
    execTxDoneOk d (withBitOrder b s) = mapNext (withBitOrder b) (execTxDoneOk d s) := by
  unfold execTxDoneOk
  rw [mapNext_ite]
  rfl

theorem execTxDoneFail_withBitOrder (d : Bytes) (b : BitOrder) (s : State) :
    execTxDoneFail d (withBitOrder b s) = mapNext (withBitOrder b) (execTxDoneFail d s) := by
  unfold execTxDoneFail
  rw [mapNext_ite]
  rfl

theorem execLinkState_withBitOrder (d : Bytes) (b : BitOrder) (s : State) :
    execLinkState d (withBitOrder b s) = mapNext (withBitOrder b) (execLinkState d s) := by
  unfold execLinkState
  cases linkLevel d <;> rfl

/-- Settles O52: operation by operation; of the parameters, the shape checks read `MAX_FRAME_LEN` and the reassembler `RX_BUF_CAP`. -/
theorem lineBitOrderIsNeverRead : Obligations.LineBitOrderIsNeverRead := by
  intro i s b
  cases i with
  | bcc | rxFault => rfl
  | encode | readStatus | clearOvf => exact withShape_withBitOrder rfl
  | decode d => exact execDecode_withBitOrder d b s
  | exchStart f => exact execExchStart_withBitOrder f b s
  | collect d => exact execCollect_withBitOrder d b s
  | timeout d => exact execTimeout_withBitOrder d b s
  | rxChunk d => exact execRxChunk_withBitOrder d b s
  | txDoneOk d => exact execTxDoneOk_withBitOrder d b s
  | txDoneFail d => exact execTxDoneFail_withBitOrder d b s
  | linkState d => exact execLinkState_withBitOrder d b s

end Sys2Proof.Machine
end

section
/-! PROOF. Around one CFE: the instances of a system share nothing (O53; 60_exceptions.md R264), and the world's books: one write
unanswered exactly while TXBUSY is 1, and no unsolicited frame lost (O54, O55; 10_state.md R36 (b), 42_correlator.md R178). The books
rest on one ledger per operation, `exec_ledger`: TXBUSY before, and the writes put out, are TXBUSY after. -/

namespace Sys2Proof.Machine

/-! ### A system (R8, R264) -/

theorem takeOffer_constant {o : Offer} {s t : State} (h : takeOffer o s = .next t) :
    t.params = s.params ∧ t.freeSource = s.freeSource := by
  rcases takeOffer_next h with ⟨_, _, -, -, hi⟩ | ⟨_, -, -, rfl⟩ | ⟨_, _, -, -, hi⟩ | ⟨_, -, -, rfl⟩ | ⟨-, rfl⟩
  · obtain ⟨hpar, -, hsrc⟩ := exec_constant hi
    exact ⟨hpar, hsrc⟩
  · exact ⟨rfl, rfl⟩
  · obtain ⟨hpar, -, hsrc⟩ := exec_constant hi
    exact ⟨hpar, hsrc⟩
  · exact ⟨rfl, rfl⟩
  · exact ⟨rfl, rfl⟩

/-- No step changes a parameter or the source of the free values (10_state.md R35; log 7). -/
theorem step_constant {s t : State} (h : step s = .next t) : t.params = s.params ∧ t.freeSource = s.freeSource := by
  rcases step_next h with ⟨-, rfl⟩ | ⟨o, rest, -, ho⟩
  · exact ⟨rfl, rfl⟩
  · exact takeOffer_constant (s := s.setOffers rest) ho

/-- A new state at one place, of the same `f`, is not seen through `f`. -/
theorem map_set_of_eq {α : Type} {l : List State} {k : Nat} {s t : State} (f : State → α) (hk : l[k]? = some s) (h : f t = f s) :
    (l.set k t).map f = l.map f := by
  obtain ⟨hlt, rfl⟩ := List.getElem?_eq_some_iff.1 hk
  rw [List.map_set, h, ← List.getElem_map f (h := by simpa using hlt), List.set_getElem_self]

/-- Settles O53: a step at place `k` writes the list of instances at `k` alone, and the reset list is given place by place. -/
theorem instancesShareNothing : Obligations.InstancesShareNothing := by
  refine ⟨fun k sys sys' h => ?step, System.atLeastOne, fun p h => ⟨?number, ?ranges, fun k hk => ?place⟩⟩
  case step =>
    obtain ⟨s, t, hs, ht, rfl⟩ := systemStep_next h
    obtain ⟨hpar, hsrc⟩ := step_constant ht
    obtain ⟨hk, -⟩ := List.getElem?_eq_some_iff.1 hs
    exact ⟨setInstance_numInstances k t sys, ⟨s, t, hs, ht, List.getElem?_set_self hk⟩,
      fun j hj => List.getElem?_set_ne hj.symm, map_set_of_eq _ hs hpar, map_set_of_eq _ hs hsrc⟩
  case number => simp [System.numInstances, System.reset]
  case ranges =>
    obtain ⟨-, hrange⟩ := (Bool.and_eq_true_iff).1 h
    intro s hs
    obtain ⟨k, -, rfl⟩ := List.mem_map.1 hs
    exact hrange
  case place => simp [System.reset, hk]

/-! ### The ledger of writes (10_state.md R36 (b)) -/

/-- How many writes wait for an answer, as TXBUSY says (R27). -/
def owed (busy : Bool) : Nat := if busy then 1 else 0

/-- The events that a state has beyond another's. -/
def freshEvents (s t : State) : List Event := t.history.drop s.history.length

theorem freshEvents_of_eq {s t : State} {es : List Event} (h : t.history = s.history ++ es) : freshEvents s t = es := by
  rw [freshEvents, h, List.drop_left]

theorem writesOf_map_unsol (fs : List Bytes) : writesOf (fs.map .unsol) = [] := by
  induction fs with
  | nil => rfl
  | cons c fs ih => exact ih

/-- An operation whose events hold no write and which leaves TXBUSY keeps the ledger. -/
theorem ledger_of_same {s t : State} (hb : t.txbusy = s.txbusy) (hh : t.history = s.history) :
    owed s.txbusy + (writesOf (freshEvents s t)).length = owed t.txbusy := by
  rw [freshEvents_of_eq (es := []) (by rw [hh, List.append_nil]), hb]
  rfl

/-- Every operation but the answers to a write: the writes it puts out are what TXBUSY grows by. -/
theorem exec_ledger {i : Instr} {s t : State} (hi : ∀ d, i ≠ .txDoneOk d ∧ i ≠ .txDoneFail d) (h : exec i s = .next t) :
    owed s.txbusy + (writesOf (freshEvents s t)).length = owed t.txbusy := by
  cases exec_effect h with
  | start f hc hb =>
    rw [freshEvents_of_eq (es := [.txw f]) rfl, hb]
    rfl
  | receive d =>
    obtain ⟨hbusy, -⟩ := receive_frame (received s.params s.rxbuf d) s
    obtain ⟨later, hhist, -⟩ := receive_history (received s.params s.rxbuf d) s
    rw [freshEvents_of_eq hhist, writesOf_map_unsol, hbusy]
    rfl
  | written d | writeFailed d => simp at hi
  | _ => exact ledger_of_same rfl rfl

/-- The answer to a write: TXBUSY falls, and no event comes (42_correlator.md R174, R175). -/
theorem exec_answer {i : Instr} {s t : State} {d : Bytes} (hi : i = .txDoneOk d ∨ i = .txDoneFail d) (h : exec i s = .next t) :
    t.txbusy = false ∧ freshEvents s t = [] := by
  have hcases : t = s ∧ s.txbusy = false ∨ t.txbusy = false ∧ t.history = s.history := by
    rcases hi with rfl | rfl
    · rcases execTxDoneOk_next (d := d) h with ⟨-, rfl⟩ | ⟨hb, rfl⟩
      · exact .inr ⟨rfl, rfl⟩
      · exact .inl ⟨rfl, hb⟩
    · rcases execTxDoneFail_next (d := d) h with ⟨-, rfl⟩ | ⟨hb, rfl⟩
      · exact .inr ⟨rfl, rfl⟩
      · exact .inl ⟨rfl, hb⟩
  rcases hcases with ⟨rfl, hb⟩ | ⟨hb, hh⟩
  · exact ⟨hb, freshEvents_of_eq (List.append_nil _).symm⟩
  · exact ⟨hb, freshEvents_of_eq (by rw [hh, List.append_nil])⟩

/-! ### The agents' actions as operations (R284) -/

/-- An offer made now is the next one taken (20_memory.md R58). -/
theorem step_setOffers_cons (o : Offer) (s : State) : step (s.setOffers (o :: s.offers)) = takeOffer o s := rfl

/-- A Transport event of a length that a transaction can carry runs its operation (R81). -/
theorem takeOffer_transport_encode {i : Instr} (s : State) (hp : i.port = .transport) (hw : i.wellFormed = true) :
    takeOffer (.transport (encode i)) s = exec i s := by
  have hdec : decode .transport (encode i) = .instr i := hp ▸ decode_encode hw
  exact takeOffer_of_instr (p := .transport) s hdec

theorem host_ne_answer {i : Instr} (h : i.port = .host) (d : Bytes) : i ≠ .txDoneOk d ∧ i ≠ .txDoneFail d := by
  constructor <;> rintro rfl <;> cases h

/-- A Host transaction keeps the ledger, whatever its bytes. -/
theorem takeOffer_host_ledger {txn : Bytes} {s t : State} (h : takeOffer (.host txn) s = .next t) :
    owed s.txbusy + (writesOf (freshEvents s t)).length = owed t.txbusy := by
  rcases takeOffer_next h with ⟨_, i, ho, hdec, hi⟩ | ⟨_, -, -, rfl⟩ | ⟨_, _, ho, -⟩ | ⟨_, ho, -⟩ | ⟨ho, -⟩
  · obtain ⟨-, hport, -⟩ := (decodeAndEncodeAgree .host _ i).1 hdec
    exact exec_ledger (host_ne_answer hport) hi
  · exact ledger_of_same rfl rfl
  · cases ho
  · cases ho
  · cases ho

/-! ### The books (R36 (b), R178) -/

theorem booksKept_iff (w : World) :
    w.booksKept = true ↔
      w.unanswered.length = owed w.cfe.txbusy ∧ w.observed ++ w.handed = unsolicitedOf w.cfe.history := by
  simp only [World.booksKept, owed, Bool.and_eq_true, beq_iff_eq]

/-- An answer takes the one unanswered write, if there is one, and none is left. -/
theorem answer_ledger {i : Instr} {s t : State} {d : Bytes} {unanswered : List Bytes}
    (hi : i = .txDoneOk d ∨ i = .txDoneFail d) (hbooks : unanswered.length = owed s.txbusy) (h : exec i s = .next t) :
    (unanswered.drop 1 ++ writesOf (freshEvents s t)).length = owed t.txbusy := by
  obtain ⟨hb, hfresh⟩ := exec_answer hi h
  have hle : unanswered.length ≤ 1 := by rw [hbooks, owed]; split <;> omega
  rw [hb, hfresh, writesOf, List.append_nil, List.length_drop, Nat.sub_eq_zero_of_le hle]
  rfl

/-- An action that answers no write leaves the unanswered ones, and adds its own. -/
theorem ledger_appended {s t : State} {unanswered : List Bytes} (hbooks : unanswered.length = owed s.txbusy)
    (h : owed s.txbusy + (writesOf (freshEvents s t)).length = owed t.txbusy) :
    (unanswered ++ writesOf (freshEvents s t)).length = owed t.txbusy := by
  rw [List.length_append, hbooks, h]

/-- One write unanswered exactly while TXBUSY is 1, behind every action that meets its duty and makes an offer. -/
theorem unanswered_after {a : Action} {o : Offer} {w : World} {t : State} (hbooks : w.unanswered.length = owed w.cfe.txbusy)
    (hduty : w.dutyMet a = true) (ho : a.offer = some o) (h : takeOffer o w.cfe = .next t) :
    (outstandingAfter a w.unanswered ++ writesOf (freshEvents w.cfe t)).length = owed t.txbusy := by
  cases a with
  | host txn =>
    cases ho
    exact ledger_appended hbooks (takeOffer_host_ledger h)
  | rxChunk d =>
    cases ho
    rw [takeOffer_transport_encode (i := .rxChunk d) _ rfl hduty] at h
    exact ledger_appended hbooks (exec_ledger (by simp) h)
  | rxFault =>
    cases ho
    rw [takeOffer_transport_encode _ rfl rfl] at h
    exact ledger_appended hbooks (exec_ledger (by simp) h)
  | txDone succeeded =>
    cases succeeded with
    | false =>
      cases ho
      rw [takeOffer_transport_encode _ rfl rfl] at h
      exact answer_ledger (.inr rfl) hbooks h
    | true =>
      cases ho
      rw [takeOffer_transport_encode _ rfl rfl] at h
      exact answer_ledger (.inl rfl) hbooks h
  | linkChange isOpen =>
    cases isOpen with
    | false =>
      cases ho
      rw [takeOffer_transport_encode _ rfl rfl] at h
      exact ledger_appended hbooks (exec_ledger (by simp) h)
    | true =>
      cases ho
      rw [takeOffer_transport_encode _ rfl rfl] at h
      exact ledger_appended hbooks (exec_ledger (by simp) h)
  | accept => cases ho
  | reset =>
    cases ho
    obtain rfl : w.cfe.resetElements = t := Host.Outcome.next.inj h
    have hfresh : freshEvents w.cfe w.cfe.resetElements = [] := freshEvents_of_eq (List.append_nil _).symm
    rw [hfresh]
    rfl

/-- The fresh `UNSOL` frames are handed behind the others, and the history has gained exactly them. -/
theorem frames_after {o : Offer} {w : World} {t : State} (hbooks : w.observed ++ w.handed = unsolicitedOf w.cfe.history)
    (h : takeOffer o w.cfe = .next t) :
    w.observed ++ (w.handed ++ unsolicitedOf (freshEvents w.cfe t)) = unsolicitedOf t.history := by
  obtain ⟨⟨es, hes⟩, -⟩ := takeOffer_outputs h
  rw [freshEvents_of_eq hes.symm, ← hes, unsolicitedOf_append, ← hbooks, List.append_assoc]

/-- Settles O54: the Observer's step moves a frame from one list to the other; every other action is one offer, whose writes and
frames are its fresh events. -/
theorem worldKeepsItsBooks : Obligations.WorldKeepsItsBooks := by
  refine ⟨rfl, fun a w w' hw hduty h => ?_⟩
  obtain ⟨hwrites, hframes⟩ := (booksKept_iff w).1 hw
  rcases act_next h with ⟨-, rfl⟩ | ⟨o, t, ho, ht, rfl⟩
  · refine (booksKept_iff _).2 ⟨?_, ?_⟩
    · rw [acceptOne_unanswered, acceptOne_cfe, hwrites]
    · rw [acceptOne_frames, acceptOne_cfe, hframes]
  · exact (booksKept_iff _).2 ⟨unanswered_after hwrites hduty ho ht, frames_after hframes ht⟩

/-! ### The Observer (R12, R178, R260) -/

theorem acceptOne_of_nil {w : World} (h : w.handed = []) : w.acceptOne = w := by
  rw [World.acceptOne, h]

theorem acceptOne_of_cons {w : World} {c : Bytes} {later : List Bytes} (h : w.handed = c :: later) :
    w.acceptOne = { w with handed := later, observed := w.observed ++ [c] } := by
  rw [World.acceptOne, h]

/-- As many steps as there are handed frames accept all of them, in order. -/
theorem iterate_acceptOne (w : World) :
    World.acceptOne^[w.handed.length] w = { w with handed := [], observed := w.observed ++ w.handed } := by
  induction hw : w.handed generalizing w with
  | nil =>
    obtain ⟨cfe, unanswered, handed, observed⟩ := w
    obtain rfl : handed = [] := hw
    simp
  | cons c later ih =>
    rw [List.length_cons, Function.iterate_succ_apply, acceptOne_of_cons hw,
      ih { w with handed := later, observed := w.observed ++ [c] } rfl, List.append_assoc, List.singleton_append]

/-- Settles O55: the Observer makes no offer, so its step is `acceptOne`; every other agent's action is an offer, whose step only adds
handed frames. -/
theorem observerStepAcceptsOneFrame : Obligations.ObserverStepAcceptsOneFrame := by
  refine ⟨fun w hw => congrArg Host.Outcome.next (acceptOne_of_nil hw),
    fun w c later hw => congrArg Host.Outcome.next (acceptOne_of_cons hw), iterate_acceptOne, fun a w w' ha h => ?_⟩
  rcases act_next h with ⟨rfl, -⟩ | ⟨o, t, -, -, rfl⟩
  · exact absurd rfl ha
  · exact ⟨rfl, List.prefix_append _ _⟩

end Sys2Proof.Machine
end

section
/-! PROOF. The Host's side: fixed-width fields (O57; 43_host_payload_builders.md R213, R214), stations (O59; R211, R212), the builders
(O56, O58; R215 to R219, 70_reset_and_hazards.md R287), and the wait of EXCHANGE (O60; 42_correlator.md R185). -/

namespace Sys2Proof.Machine

/-! ### Digits (R213, R214) -/

theorem toNat_digit_of_lt {d : Nat} (h : d < 10) : (digit d).toNat = 0x30 + d := by
  have hzero : (ascii '0').toNat = 0x30 := rfl
  rw [digit, if_pos h, BitVec.toNat_add, hzero, BitVec.toNat_ofNat]
  omega

theorem toNat_digit_of_ge {d : Nat} (h : 10 ≤ d) (h' : d < 16) : (digit d).toNat = 0x41 + (d - 10) := by
  have hletter : (ascii 'A').toNat = 0x41 := rfl
  rw [digit, if_neg (by omega), BitVec.toNat_add, hletter, BitVec.toNat_ofNat]
  omega

/-- A digit is `0-9` or `A-F`. -/
theorem digit_range {d : Nat} (h : d < 16) :
    (d < 10 ∧ 0x30 ≤ (digit d).toNat ∧ (digit d).toNat ≤ 0x39) ∨ (0x41 ≤ (digit d).toNat ∧ (digit d).toNat ≤ 0x46) := by
  by_cases hd : d < 10
  · rw [toNat_digit_of_lt hd]
    exact .inl ⟨hd, by omega, by omega⟩
  · rw [toNat_digit_of_ge (by omega) h]
    exact .inr ⟨by omega, by omega⟩

@[simp] theorem length_digits (base w n : Nat) : (digits base w n).length = w := by
  induction w generalizing n with
  | zero => rfl
  | succ w ih => rw [digits, List.length_append, ih, List.length_singleton]

/-- Every character of a field is the digit of a remainder. -/
theorem mem_digits {base w n : Nat} {b : Byte} (hbase : 0 < base) (h : b ∈ digits base w n) : ∃ d < base, b = digit d := by
  induction w generalizing n with
  | zero => cases h
  | succ w ih =>
    rw [digits, List.mem_append, List.mem_singleton] at h
    rcases h with h | rfl
    · exact ih h
    · exact ⟨n % base, Nat.mod_lt _ hbase, rfl⟩

/-- The last character counts its digit, each one before it `base` times as much. -/
theorem digitsValue_append_digit {base d : Nat} (t : Bytes) (hd : d < 16) :
    digitsValue base (t ++ [digit d]) = digitsValue base t * base + d := by
  have hvalue : (if (digit d).toNat < 0x41 then (digit d).toNat - 0x30 else (digit d).toNat - 0x41 + 10) = d := by
    by_cases h : d < 10
    · rw [toNat_digit_of_lt h, if_pos (by omega)]
      omega
    · rw [toNat_digit_of_ge (by omega) hd, if_neg (by omega)]
      omega
  simp only [digitsValue, List.foldl_append, List.foldl_cons, List.foldl_nil, hvalue]

/-- A field says the number's lowest digits. -/
theorem digitsValue_digits {base : Nat} (w n : Nat) (hpos : 0 < base) (hbase : base ≤ 16) :
    digitsValue base (digits base w n) = n % base ^ w := by
  induction w generalizing n with
  | zero => rw [pow_zero, Nat.mod_one]; rfl
  | succ w ih =>
    have hlast : n % base < 16 := (Nat.mod_lt _ hpos).trans_le hbase
    calc digitsValue base (digits base (w + 1) n)
      _ = n / base % base ^ w * base + n % base := by rw [digits, digitsValue_append_digit _ hlast, ih]
      _ = n % base ^ (w + 1) := by rw [pow_succ', Nat.mod_mul, Nat.mul_comm, Nat.add_comm]

theorem fixedField_of_bad {base w : Nat} {n : Int} (h : n < 0 ∨ (base ^ w : Nat) ≤ n) :
    fixedField base w n = .error .invalidArgument := by
  unfold fixedField
  split
  · rfl
  · exact if_pos (by omega)

theorem fixedField_of_fits {base w : Nat} {n : Int} (h0 : 0 ≤ n) (h : n < (base ^ w : Nat)) :
    fixedField base w n = .ok (digits base w n.toNat) := by
  rw [fixedField, if_neg (by omega), if_neg (by omega)]

/-- A number that fits its field is said whole. -/
theorem digitsValue_of_fits {base w : Nat} {n : Int} (hpos : 0 < base) (hbase : base ≤ 16) (h0 : 0 ≤ n)
    (h : n < (base ^ w : Nat)) : (digitsValue base (digits base w n.toNat) : Int) = n := by
  rw [digitsValue_digits _ _ hpos hbase, Nat.mod_eq_of_lt (by omega), Int.toNat_of_nonneg h0]

/-- Settles O57: both fields are `fixedField`, with base 10 and with base 16 and width 4. -/
theorem fixedWidthFields : Obligations.FixedWidthFields := by
  refine ⟨fun n w => ⟨fixedField_of_bad, fun h0 h => ?dec⟩, fun v => ⟨fun h => fixedField_of_bad (by omega), fun h0 h => ?hex⟩⟩
  case dec =>
    refine ⟨_, fixedField_of_fits h0 h, length_digits 10 w _, fun b hb => ?_,
      digitsValue_of_fits (by omega) (by omega) h0 h⟩
    obtain ⟨d, hd, rfl⟩ := mem_digits (by omega) hb
    rw [toNat_digit_of_lt hd]
    omega
  case hex =>
    have hfits : v < (16 ^ 4 : Nat) := by omega
    refine ⟨_, fixedField_of_fits h0 hfits, length_digits 16 4 _, fun b hb => ?_,
      digitsValue_of_fits (by omega) (by omega) h0 hfits⟩
    obtain ⟨d, hd, rfl⟩ := mem_digits (by omega) hb
    exact (digit_range hd).imp_left And.right

/-! ### Stations (R211, R212) -/

theorem station_of_blank {s : Bytes} (h : trim s = []) : station s = .error .invalidArgument := by
  rw [station, trimmed, h]
  rfl

theorem station_of_text {s : Bytes} (h : trim s ≠ []) : station s = .ok (padZero 2 (trim s)) := by
  rw [station, trimmed, if_neg (by simpa using h)]
  rfl

/-- Settles O59: padding adds the characters that are missing to two. -/
theorem stationIsPaddedNeverTruncated : Obligations.StationIsPaddedNeverTruncated := by
  refine fun s => ⟨station_of_blank, fun c hc => ?_, fun hlen => ?_⟩
  · rw [station_of_text (by simp [hc]), hc]
    rfl
  · have hne : trim s ≠ [] := by
      intro h
      simp [h] at hlen
    rw [station_of_text hne, padZero, Nat.sub_eq_zero_of_le hlen, List.replicate_zero, List.nil_append]

/-! ### The builders (R215 to R219) -/

/-- Settles O56: the five worked calls, evaluated. -/
theorem builderExamples : Obligations.BuilderExamples := by
  unfold Obligations.BuilderExamples
  decide

/-- What is built, if anything is, holds no END byte (70_reset_and_hazards.md R287). -/
def EndFree (b : Built) : Prop := ∀ t, b = .ok t → endByte ∉ t

theorem endFree_ok {t : Bytes} (h : endByte ∉ t) : EndFree (.ok t) := by
  rintro _ ⟨⟩
  exact h

theorem endFree_error (rc : RC) : EndFree (.error rc) := by
  rintro _ ⟨⟩

/-- Parts without END make a payload without END (R222). -/
theorem endFree_joinParts {parts : List Built} (h : ∀ q ∈ parts, EndFree q) : EndFree (joinParts parts) := by
  induction parts with
  | nil => exact endFree_ok List.not_mem_nil
  | cons q parts ih =>
    obtain ⟨hq, hparts⟩ := List.forall_mem_cons.1 h
    cases q with
    | error rc => exact endFree_error rc
    | ok t =>
      intro u hu
      simp only [joinParts] at hu
      cases hrest : joinParts parts with
      | error rc => rw [hrest] at hu; cases hu
      | ok v =>
        rw [hrest] at hu
        cases hu
        exact List.not_mem_append (hq t rfl) (ih hparts v hrest)

/-- Trimming only takes bytes away. -/
theorem mem_of_mem_trim {b : Byte} {t : Bytes} (h : b ∈ trim t) : b ∈ t := by
  have hrev := (List.dropWhile_sublist _).subset (List.mem_reverse.1 h)
  exact (List.dropWhile_sublist _).subset (List.mem_reverse.1 hrev)

theorem endFree_trimmed {t : Bytes} (h : endByte ∉ t) : EndFree (trimmed t) := by
  unfold trimmed
  split
  · exact endFree_error _
  · exact endFree_ok (mt mem_of_mem_trim h)

theorem end_not_mem_padZero {t : Bytes} (w : Nat) (h : endByte ∉ t) : endByte ∉ padZero w t := by
  have hzero : endByte ≠ ascii '0' := by decide
  simp [padZero, List.mem_replicate, hzero, h]

theorem endFree_station {st : Bytes} (h : endByte ∉ st) : EndFree (station st) := by
  by_cases hblank : trim st = []
  · rw [station_of_blank hblank]
    exact endFree_error _
  · rw [station_of_text hblank]
    exact endFree_ok (end_not_mem_padZero 2 (mt mem_of_mem_trim h))

/-- No digit is END. -/
theorem end_not_mem_digits {base w n : Nat} (hpos : 0 < base) (hbase : base ≤ 16) : endByte ∉ digits base w n := by
  intro h
  obtain ⟨d, hd, he⟩ := mem_digits hpos h
  have hvalue : (digit d).toNat = 4 := by rw [← he]; rfl
  have hrange := digit_range (hd.trans_le hbase)
  omega

theorem endFree_fixedField {base : Nat} (w : Nat) (n : Int) (hpos : 0 < base) (hbase : base ≤ 16) :
    EndFree (fixedField base w n) := by
  by_cases h : n < 0 ∨ (base ^ w : Nat) ≤ n
  · rw [fixedField_of_bad h]
    exact endFree_error _
  · rw [fixedField_of_fits (by omega) (by omega)]
    exact endFree_ok (end_not_mem_digits hpos hbase)

theorem endFree_dec (n : Int) (w : Nat) : EndFree (dec n w) :=
  endFree_fixedField w n (by omega) (by omega)

theorem endFree_hex4 (v : Int) : EndFree (hex4 v) :=
  endFree_fixedField 4 v (by omega) (by omega)

theorem endFree_checked (good : Bool) : EndFree (checked good) := by
  cases good
  · exact endFree_error _
  · exact endFree_ok List.not_mem_nil

/-- `dec(len, 2)` and the text itself. -/
theorem endFree_lengthPrefixed {t : Bytes} (h : endByte ∉ t) : EndFree (lengthPrefixed t) := by
  have htrim := endFree_trimmed h
  unfold lengthPrefixed
  split
  · exact endFree_error _
  · next u hu =>
    refine endFree_joinParts fun q hq => ?_
    rcases List.mem_pair.1 hq with rfl | rfl
    · exact endFree_dec _ _
    · exact endFree_ok (htrim u hu)

theorem endFree_numberText (hex : Bool) (n : Int) : EndFree (numberText hex n) := by
  unfold numberText
  split
  · exact endFree_error _
  · split
    · exact endFree_hex4 n
    · exact endFree_ok (end_not_mem_digits (by omega) (by omega))

/-- Every rendered number is without END. -/
theorem end_not_mem_numberTexts {hex : Bool} {nums : List Int} {texts : List Bytes} (h : numberTexts hex nums = .ok texts) :
    ∀ t ∈ texts, endByte ∉ t := by
  induction nums generalizing texts with
  | nil =>
    cases h
    exact fun _ ht => absurd ht List.not_mem_nil
  | cons n ns ih =>
    simp only [numberTexts] at h
    cases hn : numberText hex n with
    | error rc => rw [hn] at h; cases h
    | ok t =>
      cases hns : numberTexts hex ns with
      | error rc => rw [hn, hns] at h; cases h
      | ok later =>
        rw [hn, hns] at h
        cases h
        exact List.forall_mem_cons.2 ⟨endFree_numberText hex n t hn, ih hns⟩

section
variable {addrs vals : List Bytes} {start st : Bytes}

theorem endFree_buildRead (ha : ∀ a ∈ addrs, endByte ∉ a) (hst : endByte ∉ st) : EndFree (buildRead addrs st) := by
  refine endFree_joinParts fun q hq => ?_
  simp only [List.cons_append, List.nil_append, List.mem_cons, List.mem_map] at hq
  rcases hq with rfl | rfl | rfl | rfl | ⟨a, hmem, rfl⟩
  · exact endFree_station hst
  · exact endFree_checked _
  · exact endFree_ok (by decide)
  · exact endFree_dec _ _
  · exact endFree_lengthPrefixed (ha a hmem)

theorem endFree_buildWrite (ha : ∀ a ∈ addrs, endByte ∉ a) (hv : ∀ v ∈ vals, endByte ∉ v) (hst : endByte ∉ st) :
    EndFree (buildWrite addrs vals st) := by
  refine endFree_joinParts fun q hq => ?_
  simp only [List.cons_append, List.nil_append, List.mem_cons] at hq
  rcases hq with rfl | rfl | rfl | rfl | rfl | hpair
  · exact endFree_station hst
  · exact endFree_checked _
  · exact endFree_checked _
  · exact endFree_ok (by decide)
  · exact endFree_dec _ _
  · rw [← List.map_uncurry_zip_eq_zipWith] at hpair
    obtain ⟨⟨a, v⟩, hmem, rfl⟩ := List.mem_map.1 hpair
    obtain ⟨hamem, hvmem⟩ := List.of_mem_zip hmem
    refine endFree_joinParts fun q hq => ?_
    rcases List.mem_pair.1 hq with rfl | rfl
    · exact endFree_lengthPrefixed (ha a hamem)
    · exact endFree_lengthPrefixed (hv v hvmem)

theorem endFree_buildWriteNum (nums : List Int) (hex : Bool) (ha : ∀ a ∈ addrs, endByte ∉ a) (hst : endByte ∉ st) :
    EndFree (buildWriteNum addrs nums hex st) := by
  unfold buildWriteNum
  split
  · exact endFree_error _
  · next texts htexts => exact endFree_buildWrite ha (end_not_mem_numberTexts htexts) hst

theorem endFree_buildReadBlock (count : Int) (hstart : endByte ∉ start) (hst : endByte ∉ st) :
    EndFree (buildReadBlock start count st) := by
  refine endFree_joinParts fun q hq => ?_
  simp only [List.mem_cons, List.not_mem_nil, or_false] at hq
  rcases hq with rfl | rfl | rfl | rfl
  · exact endFree_station hst
  · exact endFree_ok (by decide)
  · exact endFree_lengthPrefixed hstart
  · exact endFree_dec _ _

theorem endFree_buildWriteBlock (words : List Int) (hstart : endByte ∉ start) (hst : endByte ∉ st) :
    EndFree (buildWriteBlock start words st) := by
  refine endFree_joinParts fun q hq => ?_
  simp only [List.cons_append, List.nil_append, List.mem_cons, List.mem_map] at hq
  rcases hq with rfl | rfl | rfl | rfl | rfl | rfl | ⟨v, -, rfl⟩
  · exact endFree_station hst
  · exact endFree_checked _
  · exact endFree_ok (by decide)
  · exact endFree_lengthPrefixed hstart
  · exact endFree_dec _ _
  · exact endFree_dec _ _
  · exact endFree_hex4 v

end

/-- Settles O58: builder by builder, part by part. -/
theorem buildersAddNoEndByte : Obligations.BuildersAddNoEndByte := by
  intro addrs vals nums hex start st p count ha hv hstart hst h
  rcases h with h | h | h | h | h
  · exact endFree_buildRead ha hst p h
  · exact endFree_buildWrite ha hv hst p h
  · exact endFree_buildWriteNum nums hex ha hst p h
  · exact endFree_buildReadBlock count hstart hst p h
  · exact endFree_buildWriteBlock nums hstart hst p h

/-! ### The wait of EXCHANGE (R185) -/

theorem exchangeStep_waiting (expired : Bool) (s : State) :
    exchangeStep expired .waiting s =
      .next (if respReady s = true then .collecting else if expired = true then .timingOut else .waiting, s) := by
  simp only [exchangeStep]
  split
  · rfl
  · split <;> rfl

/-- A caller's transaction that the CFE answers with one more result: the caller goes on from that result. -/
theorem callerCall_of_exec {i : Instr} {after : Result → Phase} (ph : Phase) {s t : State} {r : Result} (hp : i.port = .host)
    (hw : i.wellFormed = true) (h : exec i s = .next t) (hr : t.results = s.results ++ [r]) :
    callerCall i after ph s = .next (after r, t) := by
  have hlast : t.results.getLast? = some r := by rw [hr, List.getLast?_concat]
  have hcall : hostCall i s = .next (some r, t) := by
    rw [hostCall_eq i s hw (hp ▸ decode_encode hw), h, ← hlast]
  rw [callerCall, hcall]

theorem exchangeStep_collecting (expired : Bool) {s t : State} {r : Result} (h : exec (.collect []) s = .next t)
    (hr : t.results = s.results ++ [r]) : exchangeStep expired .collecting s = .next (afterWait r, t) :=
  callerCall_of_exec .collecting rfl rfl h hr

theorem exchangeStep_timingOut (expired : Bool) {s t : State} {r : Result} (h : exec (.timeout []) s = .next t)
    (hr : t.results = s.results ++ [r]) : exchangeStep expired .timingOut s = .next (afterWait r, t) :=
  callerCall_of_exec .timingOut rfl rfl h hr

/-- Outside AWAITING it makes no difference which of the two transactions the caller issues (R179, R180). -/
theorem exchangeStep_of_not_awaiting (expired : Bool) {s t : State} {r : Result} {ph : Phase} (hc : s.cstate ≠ .awaiting)
    (hph : ph = .collecting ∨ ph = .timingOut) (h : exec (.collect []) s = .next t) (hr : t.results = s.results ++ [r]) :
    exchangeStep expired ph s = .next (afterWait r, t) := by
  rcases hph with rfl | rfl
  · exact exchangeStep_collecting expired h hr
  · exact exchangeStep_timingOut expired ((exec_timeout_eq_collect (.inr hc)).trans h) hr

/-- Settles O60: the test reads RESP_READY and the timer; each transaction is its operation, and its result decides the next phase. -/
theorem exchangeWaitReturnsItsOutcome : Obligations.ExchangeWaitReturnsItsOutcome := by
  refine fun s expired => ⟨exchangeStep_waiting expired s, fun hb => ⟨fun hc => ⟨?collect, ?timeout⟩, fun hc ph hph => ?wfailed,
    fun hc c hr ph hph => ?fulfilled⟩⟩
  case collect => exact exchangeStep_collecting expired (exec_collect_of_awaiting hb hc) rfl
  case timeout => exact exchangeStep_timingOut expired (exec_timeout_of_awaiting hb hc) rfl
  case wfailed =>
    exact exchangeStep_of_not_awaiting expired (by simp [hc]) hph (exec_collect_of_wfailed hb hc) rfl
  case fulfilled =>
    obtain ⟨n, k, hresp, hshort⟩ := respond_cases .ok c ((s.setResp none).setCstate .idle)
    have hcollect := (exec_collect_of_fulfilled hb hc hr).trans (congrArg Host.Outcome.next hresp)
    exact ⟨n, k, exchangeStep_of_not_awaiting expired (by simp [hc]) hph hcollect rfl, hshort⟩

end Sys2Proof.Machine
end
